-- ==== Sys2Proof/Word.lean ====
section
/-! DEFINITION. The word types of the block and the two enumerations its encodings name. -/

namespace Sys2Proof

/-- A byte, bits 7..0 (00_scope.md R20). -/
abbrev Byte := BitVec 8

/-- A format-X transaction word: 19 bits (30_encoding.md R90, R91). -/
abbrev XWord := BitVec 19

/-- A format-K decode key: 7 bits (30_encoding.md R90, R94). -/
abbrev Key := BitVec 7

/-- The downstream-space input, `SPACE_W` = 16 bits, in whole frames (00_scope.md R14). -/
abbrev Space := BitVec 16

/-- The interrupt-diagnostic counter, `DIAG_W` = 32 bits (00_scope.md R18). -/
abbrev DiagWord := BitVec 32

/-- One interrupt count of the I/O abstraction, `INTCNT_W` = 32 bits (00_scope.md R18). -/
abbrev IntCount := BitVec 32

/-- The four calibration-mode classes (30_encoding.md R93). -/
inductive Mode where
  | other
  | fullCal
  | dmr1k
  | intDiag
  deriving DecidableEq, Repr, Inhabited

/-- The four calibration states (10_state.md R31, 41_sequencer.md R140). -/
inductive FsmState where
  | idle
  | vh
  | voice
  | vt
  deriving DecidableEq, Repr, Inhabited

end Sys2Proof
end

