-- ==== Sys2Proof/Config.lean ====
section
/-! DEFINITION. What an implementation fixes (00_scope.md section 4): the frame length, the type of a
parameter set, and one opaque constant for each parameter the spec leaves OPEN and for the free
value of the interrupt counts. The parameter set of THIS hardware is `Machine.hw` (Machine/Hw.lean). -/

namespace Sys2Proof

/-- `DMR_FRAME_LENGTH_BYTES` (00_scope.md R8): 33. PRESUMED by the spec itself (D3, GK1), log entry 1. -/
abbrev Config.dmrFrameLengthBytes : Nat := 33

/-- `FRAME_BYTES` (00_scope.md R9). -/
abbrev Config.frameBytes : Nat := Config.dmrFrameLengthBytes + 1

/-- A frame: the 1-byte type/marker and the burst payload (00_scope.md R9, 20_memory.md R61). -/
abbrev Frame := Vector Byte Config.frameBytes

/-- `EMB_LUT`: 6 entries of 7 bytes (00_scope.md R10, 20_memory.md R64). -/
abbrev EmbTable := Vector (Vector Byte 7) 6

/-- Which of the two interrupt counts is halved: `DIAG_SHIFT_SEL` = 1 or 2 (00_scope.md R18). -/
inductive ShiftSel where
  | first
  | second
  deriving DecidableEq, Repr, Inhabited

/-- `REARM_POLICY` (93_implementation_defined.md U5): what a WRITE of 1 does in VOICE. -/
inductive RearmPolicy where
  | continueRun
  | restartHeader
  deriving DecidableEq, Repr, Inhabited

/-- The parameters a model of the block takes (00_scope.md R12 to R19, 93_implementation_defined.md section 1).
Configuration, never state: no transaction and no reset writes one (20_memory.md R66). -/
structure Params where
  /-- `VH_ROM` (R61). -/
  vhRom : Frame
  /-- `VT_ROM` (R62). -/
  vtRom : Frame
  /-- `TONE_ROM` (R63). -/
  toneRom : Frame
  /-- `EMB_LUT` (R64). -/
  embLut : EmbTable
  /-- `M14` (R13). -/
  m14 : Byte
  /-- `M20` (R13). -/
  m20 : Byte
  /-- `SPACE_MIN` (R14). -/
  spaceMin : Space
  /-- `MODE_MAP` (R15), from the host's mode value to a class. -/
  modeMap : Nat → Mode
  /-- `RF_DMR_TAG` (R19). -/
  rfDmrTag : Nat
  /-- `DIAG_THRESHOLD` (R18). -/
  diagThreshold : Nat
  /-- What the increment of `diag_counter` gives at 2^32 - 1, which no rule states (log entry 17). -/
  diagOverflow : DiagWord
  /-- `DIAG_SHIFT_SEL` (R18). -/
  diagShiftSel : ShiftSel
  /-- `REARM_POLICY` (U5). -/
  rearmPolicy : RearmPolicy
  /-- What the k-th `readInterruptCounters()` answers (42_dispatcher.md R173: "a draw"). -/
  intCounts : Nat → IntCount × IntCount

/-- Byte `i` of `VH_ROM`. OPEN (R12), log entry 2. -/
opaque Config.vhByte : Nat → Byte

/-- Byte `i` of `VT_ROM`. OPEN (R12), log entry 2. -/
opaque Config.vtByte : Nat → Byte

/-- Byte `i` of `TONE_ROM`. OPEN (R12), log entry 2. -/
opaque Config.toneByte : Nat → Byte

/-- Byte `j` of entry `n` of `EMB_LUT`. OPEN (R12), log entry 2. -/
opaque Config.embByte : Nat → Nat → Byte

/-- `MODE_MAP`. OPEN (R15), log entry 18. -/
opaque Config.modeMap : Nat → Mode

/-- `RF_DMR_TAG`. OPEN (R19), log entry 18. -/
opaque Config.rfDmrTag : Nat

/-- `DIAG_THRESHOLD` less one: the threshold is "a positive integer" (R18). OPEN, log entry 17. -/
opaque Config.diagThresholdLessOne : Nat

/-- The free value of the increment of a counter at 2^32 - 1: R173 says only that a threshold that fits the counter
never meets it. Log entry 17. -/
opaque Config.diagOverflow : DiagWord

/-- `DIAG_SHIFT_SEL`. OPEN (R18), log entry 17. -/
opaque Config.diagShiftSel : ShiftSel

/-- The free value of the k-th read of the interrupt counters (R173, U6), log entry 8. -/
opaque Config.intCounts : Nat → IntCount × IntCount

/-- `TONE_ROM` of this hardware, byte by byte. -/
def Config.toneRom : Frame := Vector.ofFn fun i => Config.toneByte i.val

end Sys2Proof
end

