-- ==== Sys2Proof/Machine/Hw.lean ====
section
/-! DEFINITION. The parameter set of this hardware (00_scope.md section 4) and the fixed status codes. -/

namespace Sys2Proof.Machine

/-- `VH_ROM` (R12, R61). -/
def vhRom : Frame := Vector.ofFn fun i => Config.vhByte i.val

/-- `VT_ROM` (R12, R62). -/
def vtRom : Frame := Vector.ofFn fun i => Config.vtByte i.val

/-- `EMB_LUT` (R12, R64). -/
def embLut : EmbTable := Vector.ofFn fun n => Vector.ofFn fun j => Config.embByte n.val j.val

/-- The parameters of this hardware: the spec's values where it gives one, the OPEN constants of Config
elsewhere. `M14` = `M20` = 0xF0 is the normative value (R13, D5; UNVERIFIED, log entry 3); `SPACE_MIN` = 1
(R14, D8; log entry 13); `REARM_POLICY` = CONTINUE (U5, D10; log entry 14). -/
def hw : Params where
  vhRom := vhRom
  vtRom := vtRom
  toneRom := Config.toneRom
  embLut := embLut
  m14 := 0xF0#8
  m20 := 0xF0#8
  spaceMin := 1#16
  modeMap := Config.modeMap
  rfDmrTag := Config.rfDmrTag
  diagThreshold := Config.diagThresholdLessOne + 1
  diagOverflow := Config.diagOverflow
  diagShiftSel := Config.diagShiftSel
  rearmPolicy := .continueRun
  intCounts := Config.intCounts

/-- `STATUS_OK` (R16, 60_exceptions.md R211). -/
def statusOk : Byte := 0#8

/-- `STATUS_BADLEN` (R16, 60_exceptions.md R211). -/
def statusBadlen : Byte := 4#8

end Sys2Proof.Machine
end

