-- ==== Sys2Proof/Syntax.lean ====
section
/-! DEFINITION. The instructions: one constructor per row of spec/opcode_table.json
(30_encoding.md R96). The operands are every bit of the row's encoding that the row does not fix. -/

namespace Sys2Proof

/-- The 13 rows of the opcode map: six transactions (format X), seven micro-operations (format K). -/
inductive Instr where
  /-- WRITE: a command of length 1 (43_command.md R192). -/
  | write (mode : Mode) (d0 : Byte)
  /-- WRITE_BADLEN: a command of any other length (43_command.md R191). -/
  | writeBadlen (mode : Mode) (len : Byte) (d0 : Byte)
  /-- TICK_OTHER (42_dispatcher.md R174). -/
  | tickOther (space : Space)
  /-- TICK_FULLCAL (42_dispatcher.md R172). -/
  | tickFullcal (space : Space)
  /-- TICK_DMR1K (42_dispatcher.md R171). -/
  | tickDmr1k (space : Space)
  /-- TICK_INTDIAG (42_dispatcher.md R173). -/
  | tickIntdiag (space : Space)
  /-- FSM_STALL (41_sequencer.md R142). -/
  | fsmStall (st : FsmState) (seq5 : Bool) (te : Bool)
  /-- FSM_IDLE (41_sequencer.md R143). -/
  | fsmIdle (seq5 : Bool) (te : Bool)
  /-- FSM_EMIT_VH (41_sequencer.md R144). -/
  | fsmEmitVh (seq5 : Bool) (te : Bool)
  /-- FSM_EMIT_VOICE (41_sequencer.md R145). -/
  | fsmEmitVoice (te : Bool)
  /-- FSM_VOICE_WRAP_CONT (41_sequencer.md R146). -/
  | fsmVoiceWrapCont
  /-- FSM_VOICE_WRAP_END (41_sequencer.md R147). -/
  | fsmVoiceWrapEnd
  /-- FSM_EMIT_VT (41_sequencer.md R148). -/
  | fsmEmitVt (seq5 : Bool) (te : Bool)
  deriving DecidableEq, Repr

end Sys2Proof
end

