-- ==== Sys2Proof/WellFormed.lean ====
section
/-! DEFINITION. Which instructions an encoding can hold. -/

namespace Sys2Proof

/-- The one side condition of the opcode map: WRITE_BADLEN's `len` is not 1, since WRITE is tested
first (30_encoding.md R96, R97). Every other operand takes every value of its type. -/
def Instr.wellFormed (i : Instr) : Bool :=
  match i with
  | .write _ _ => true
  | .writeBadlen _ len _ => len != 0x01#8
  | .tickOther _ => true
  | .tickFullcal _ => true
  | .tickDmr1k _ => true
  | .tickIntdiag _ => true
  | .fsmStall _ _ _ => true
  | .fsmIdle _ _ => true
  | .fsmEmitVh _ _ => true
  | .fsmEmitVoice _ => true
  | .fsmVoiceWrapCont => true
  | .fsmVoiceWrapEnd => true
  | .fsmEmitVt _ _ => true

end Sys2Proof
end

