-- ==== Sys2Proof/Decode.lean ====
section
/-! DEFINITION. The two encodings of 30_encoding.md: field layouts, the decoder (total, rejecting by
name), the encoder, and the opcode map of R96 as mask/match rows. -/

namespace Sys2Proof

/-! ### Codes of the enumerations -/

/-- Mode class codes (30_encoding.md R93). -/
def Mode.code (m : Mode) : BitVec 2 :=
  match m with
  | .other => 0b00#2
  | .fullCal => 0b01#2
  | .dmr1k => 0b10#2
  | .intDiag => 0b11#2

/-- The class a mode code names (30_encoding.md R93): all four codes are used. -/
def Mode.ofCode (c : BitVec 2) : Mode :=
  if c = 0b00#2 then .other
  else if c = 0b01#2 then .fullCal
  else if c = 0b10#2 then .dmr1k
  else .intDiag

/-- Codes of `fsm_state` (10_state.md R31). -/
def FsmState.code (f : FsmState) : BitVec 2 :=
  match f with
  | .idle => 0b00#2
  | .vh => 0b01#2
  | .voice => 0b10#2
  | .vt => 0b11#2

/-- The state a code names (10_state.md R31: "All four codes are used"). -/
def FsmState.ofCode (c : BitVec 2) : FsmState :=
  if c = 0b00#2 then .idle
  else if c = 0b01#2 then .vh
  else if c = 0b10#2 then .voice
  else .vt

/-! ### Format X (R91, R92) -/

/-- Bit [18]: 0 = command write, 1 = tick (R91). -/
def XWord.kind (w : XWord) : BitVec 1 := w.extractLsb' 18 1

/-- Bits [17:16] (R91). -/
def XWord.mode (w : XWord) : BitVec 2 := w.extractLsb' 16 2

/-- Bits [15:8] of a command (R92). -/
def XWord.len (w : XWord) : Byte := w.extractLsb' 8 8

/-- Bits [7:0] of a command (R92). -/
def XWord.d0 (w : XWord) : Byte := w.extractLsb' 0 8

/-- Bits [15:0] of a tick (R92). -/
def XWord.space (w : XWord) : Space := w.extractLsb' 0 16

/-- A command word (R91, R92), fields from the high bits down. -/
def XWord.command (m : Mode) (len d0 : Byte) : XWord := 0#1 ++ m.code ++ len ++ d0

/-- A tick word (R91, R92). -/
def XWord.tick (m : Mode) (space : Space) : XWord := 1#1 ++ m.code ++ space

/-- The row of a tick, by its mode (R96, 42_dispatcher.md R170). -/
def tickRow (m : Mode) (space : Space) : Instr :=
  match m with
  | .other => .tickOther space
  | .fullCal => .tickFullcal space
  | .dmr1k => .tickDmr1k space
  | .intDiag => .tickIntdiag space

/-- The row of a command, by its length: WRITE is tested first (R97, 43_command.md R190). -/
def commandRow (m : Mode) (len d0 : Byte) : Instr :=
  if len = 0x01#8 then .write m d0 else .writeBadlen m len d0

/-- The row a transaction word decodes to: total on all 2^19 words (R97). -/
def decodeTxn (w : XWord) : Instr :=
  if XWord.kind w = 0#1 then commandRow (Mode.ofCode (XWord.mode w)) (XWord.len w) (XWord.d0 w)
  else tickRow (Mode.ofCode (XWord.mode w)) (XWord.space w)

/-! ### Format K (R94) -/

/-- The seven micro-operations a DMR_1K tick selects from (R96, format-K rows). -/
inductive MicroOp where
  | stall
  | idle
  | emitVh
  | emitVoice
  | voiceWrapCont
  | voiceWrapEnd
  | emitVt
  deriving DecidableEq, Repr

/-- `key[6:5]` (R94). -/
def Key.mode (k : Key) : BitVec 2 := k.extractLsb' 5 2

/-- `key[4:3]` (R94). -/
def Key.state (k : Key) : BitVec 2 := k.extractLsb' 3 2

/-- `key[2]` (R94). -/
def Key.spaceOk (k : Key) : Bool := k.getLsbD 2

/-- `key[1]` (R94). -/
def Key.seq5 (k : Key) : Bool := k.getLsbD 1

/-- `key[0]` (R94). -/
def Key.te (k : Key) : Bool := k.getLsbD 0

/-- The key of a DMR_1K tick from its four parts; `key[6:5]` is always 0b10 (R94, 41_sequencer.md R141). -/
def Key.form (st : FsmState) (spaceOk seq5 te : Bool) : Key :=
  0b10#2 ++ st.code ++ BitVec.ofBool spaceOk ++ BitVec.ofBool seq5 ++ BitVec.ofBool te

/-- The format-K row by its conditions (R96, second table). -/
def selectRow (st : FsmState) (spaceOk seq5 te : Bool) : MicroOp :=
  match spaceOk, st, seq5, te with
  | false, _, _, _ => .stall
  | true, .idle, _, _ => .idle
  | true, .vh, _, _ => .emitVh
  | true, .voice, false, _ => .emitVoice
  | true, .voice, true, true => .voiceWrapCont
  | true, .voice, true, false => .voiceWrapEnd
  | true, .vt, _, _ => .emitVt

/-- The row a key of mode DMR_1K selects (R96, R97): total on the 32 such keys. -/
def Key.row (k : Key) : MicroOp := selectRow (FsmState.ofCode k.state) k.spaceOk k.seq5 k.te

/-- A micro-operation as an instruction: the row with the key bits it does not fix. -/
def MicroOp.toInstr (m : MicroOp) (st : FsmState) (seq5 te : Bool) : Instr :=
  match m with
  | .stall => .fsmStall st seq5 te
  | .idle => .fsmIdle seq5 te
  | .emitVh => .fsmEmitVh seq5 te
  | .emitVoice => .fsmEmitVoice te
  | .voiceWrapCont => .fsmVoiceWrapCont
  | .voiceWrapEnd => .fsmVoiceWrapEnd
  | .emitVt => .fsmEmitVt seq5 te

/-! ### The decoder and the encoder -/

/-- An encoded instruction: a transaction word or a decode key (R90). -/
inductive Code where
  | x (w : XWord)
  | k (key : Key)
  deriving DecidableEq, Repr

/-- Why bits are no instruction. -/
inductive DecodeReject where
  /-- The number does not fit the 19 bits of format X (R90). -/
  | wordTooWide
  /-- The number does not fit the 7 bits of format K (R90). -/
  | keyTooWide
  /-- A key of another mode than DMR_1K: "Keys with mode != 10 are never formed" (R97). -/
  | keyOfOtherMode
  deriving DecidableEq, Repr

/-- The decoder (R96, R97). -/
def decode (c : Code) : Except DecodeReject Instr :=
  match c with
  | .x w => .ok (decodeTxn w)
  | .k key =>
    if key.mode = 0b10#2 then .ok (key.row.toInstr (FsmState.ofCode key.state) key.seq5 key.te)
    else .error .keyOfOtherMode

/-- The encoder, from the same layouts (R91, R92, R94, R96). -/
def encode (i : Instr) : Code :=
  match i with
  | .write m d0 => .x (XWord.command m 0x01#8 d0)
  | .writeBadlen m len d0 => .x (XWord.command m len d0)
  | .tickOther sp => .x (XWord.tick .other sp)
  | .tickFullcal sp => .x (XWord.tick .fullCal sp)
  | .tickDmr1k sp => .x (XWord.tick .dmr1k sp)
  | .tickIntdiag sp => .x (XWord.tick .intDiag sp)
  | .fsmStall st q t => .k (Key.form st false q t)
  | .fsmIdle q t => .k (Key.form .idle true q t)
  | .fsmEmitVh q t => .k (Key.form .vh true q t)
  | .fsmEmitVoice t => .k (Key.form .voice true false t)
  | .fsmVoiceWrapCont => .k (Key.form .voice true true true)
  | .fsmVoiceWrapEnd => .k (Key.form .voice true true false)
  | .fsmEmitVt q t => .k (Key.form .vt true q t)

/-- The code in a container of `nbits` bits whose value is `w`, bit 0 the least significant. A container of
at most 8 bits holds a key, a wider one a transaction word (DESIGN CHOICE, log entry 19). -/
def codeOfNat (nbits w : Nat) : Except DecodeReject Code :=
  if nbits ≤ 8 then
    if w < 2 ^ 7 then .ok (.k (BitVec.ofNat 7 w)) else .error .keyTooWide
  else
    if w < 2 ^ 19 then .ok (.x (BitVec.ofNat 19 w)) else .error .wordTooWide

/-- The decoder on numbers: total, rejecting by name. -/
def decodeNat (nbits w : Nat) : Except DecodeReject Instr :=
  match codeOfNat nbits w with
  | .ok c => decode c
  | .error r => .error r

/-- The instruction the decoder reads from a table row's bits. -/
def decodeTableWord (nbits w : Nat) : Option Instr :=
  match decodeNat nbits w with
  | .ok i => some i
  | .error _ => none

/-! ### The opcode map of R96, row by row -/

/-- A row of the opcode map: it takes the words `w` with `w & mask == pattern`. -/
structure OpRow (n : Nat) where
  mnemonic : String
  pattern : BitVec n
  mask : BitVec n
  deriving DecidableEq, Repr

/-- Whether a row takes a word. -/
def OpRow.takes {n : Nat} (r : OpRow n) (w : BitVec n) : Bool := w &&& r.mask == r.pattern

/-- The rows of format X, in the order they are tested (R96, R97). -/
def xRows : List (OpRow 19) :=
  [ ⟨"WRITE", 0x00100#19, 0x4FF00#19⟩,
    ⟨"WRITE_BADLEN", 0x00000#19, 0x40000#19⟩,
    ⟨"TICK_OTHER", 0x40000#19, 0x70000#19⟩,
    ⟨"TICK_FULLCAL", 0x50000#19, 0x70000#19⟩,
    ⟨"TICK_DMR1K", 0x60000#19, 0x70000#19⟩,
    ⟨"TICK_INTDIAG", 0x70000#19, 0x70000#19⟩ ]

/-- The rows of format K (R96). -/
def kRows : List (OpRow 7) :=
  [ ⟨"FSM_STALL", 0x40#7, 0x64#7⟩,
    ⟨"FSM_IDLE", 0x44#7, 0x7C#7⟩,
    ⟨"FSM_EMIT_VH", 0x4C#7, 0x7C#7⟩,
    ⟨"FSM_EMIT_VOICE", 0x54#7, 0x7E#7⟩,
    ⟨"FSM_VOICE_WRAP_CONT", 0x57#7, 0x7F#7⟩,
    ⟨"FSM_VOICE_WRAP_END", 0x56#7, 0x7F#7⟩,
    ⟨"FSM_EMIT_VT", 0x5C#7, 0x7C#7⟩ ]

/-- The mnemonic of the first row that takes a word. -/
def firstRow {n : Nat} (rows : List (OpRow n)) (w : BitVec n) : Option String :=
  (rows.find? fun r => r.takes w).map OpRow.mnemonic

/-- An instruction's row in spec/opcode_table.json. -/
def Instr.mnemonic (i : Instr) : String :=
  match i with
  | .write _ _ => "WRITE"
  | .writeBadlen _ _ _ => "WRITE_BADLEN"
  | .tickOther _ => "TICK_OTHER"
  | .tickFullcal _ => "TICK_FULLCAL"
  | .tickDmr1k _ => "TICK_DMR1K"
  | .tickIntdiag _ => "TICK_INTDIAG"
  | .fsmStall _ _ _ => "FSM_STALL"
  | .fsmIdle _ _ => "FSM_IDLE"
  | .fsmEmitVh _ _ => "FSM_EMIT_VH"
  | .fsmEmitVoice _ => "FSM_EMIT_VOICE"
  | .fsmVoiceWrapCont => "FSM_VOICE_WRAP_CONT"
  | .fsmVoiceWrapEnd => "FSM_VOICE_WRAP_END"
  | .fsmEmitVt _ _ => "FSM_EMIT_VT"

end Sys2Proof
end

