-- ==== Sys2Proof/Machine/Operands.lean ====
section
/-! DEFINITION. The data path's operands: ROM reads, the masked merge, the patcher on a frame, the next
audio-sequence position, and the words of a command and of a tick. -/

namespace Sys2Proof.Machine

/-- `RomRead(R, i)` (00_scope.md R22, 20_memory.md R67): the index is in range by its type. -/
def romRead (r : Frame) (i : Fin Config.frameBytes) : Byte := r[i]

/-- `RomRead(EMB_LUT, n, j)` (20_memory.md R67). -/
def embRead (t : EmbTable) (n : Fin 6) (j : Fin 7) : Byte := t[n][j]

/-- `(dst & ~M) | (src & M)` (40_assembler.md R120). -/
def mergeMasked (m dst src : Byte) : Byte := (dst &&& ~~~m) ||| (src &&& m)

/-- ASSEMBLE(n) on the bytes of the working frame (40_assembler.md R120): a masked merge at offset 14, five
whole bytes at 15..19, a masked merge at offset 20. -/
def patch (p : Params) (n : Fin 6) (b : Frame) : Frame :=
  let b := b.set 14 (mergeMasked p.m14 b[14] (embRead p.embLut n 0))
  let b := b.set 15 (embRead p.embLut n 1)
  let b := b.set 16 (embRead p.embLut n 2)
  let b := b.set 17 (embRead p.embLut n 3)
  let b := b.set 18 (embRead p.embLut n 4)
  let b := b.set 19 (embRead p.embLut n 5)
  b.set 20 (mergeMasked p.m20 b[20] (embRead p.embLut n 6))

/-- `VOICE_FRAME(n)` (40_assembler.md R123), byte by byte, from the template and the table alone. -/
def voiceFrame (p : Params) (n : Fin 6) : Frame :=
  Vector.ofFn fun i =>
    if i.val = 14 then mergeMasked p.m14 (romRead p.toneRom 14) (embRead p.embLut n 0)
    else if h : 15 ≤ i.val ∧ i.val ≤ 19 then embRead p.embLut n ⟨i.val - 14, by omega⟩
    else if i.val = 20 then mergeMasked p.m20 (romRead p.toneRom 20) (embRead p.embLut n 6)
    else romRead p.toneRom i

/-- `audio_seq + 1` for positions 0..4, "no wrap" (41_sequencer.md R145); none at position 5. -/
def nextPosition (n : Fin 6) : Option (Fin 6) :=
  if h : n.val + 1 < 6 then some ⟨n.val + 1, h⟩ else none

/-- The length field of a command of `k` payload bytes (30_encoding.md R92, R99). A length over 255 has no
word of its own; it is written as 255, which is rejected alike (D13, log entry 25). -/
def lenField (k : Nat) : Byte := BitVec.ofNat 8 (min k 255)

/-- The word of `write(data, length)` in a mode class: the first byte, or 0 when there is none; further bytes
are dropped (30_encoding.md R92). -/
def commandWord (m : Mode) (data : List Byte) : XWord :=
  XWord.command m (lenField data.length) (data.headD 0#8)

/-- The word of `tick()` in a mode class with the space count at that moment (30_encoding.md R92). -/
def tickWord (m : Mode) (space : Space) : XWord := XWord.tick m space

end Sys2Proof.Machine
end

