-- ==== Sys2Proof/Machine/State.lean ====
section
/-! DEFINITION. The machine's state as plain data, the reasons a step can stop, and the state after reset. -/

namespace Sys2Proof.Machine

/-- One record of the output event trace (10_state.md R39). -/
inductive Event where
  /-- `FrameOut(bytes, len)`: a copy of the frame's bytes (R39, 20_memory.md R72). -/
  | frameOut (bytes : Frame) (len : Nat)
  /-- `Status(code)`: the return value of a command (R39, 60_exceptions.md R211). -/
  | status (code : Byte)
  /-- `RfIfConf(tag, enabled)` (R39, 43_command.md R194). -/
  | rfIfConf (tag : Nat) (enabled : Bool)
  /-- `CalCarrier(b)` (R39, 42_dispatcher.md R172). -/
  | calCarrier (on : Bool)
  /-- `TxProcess` (R39, 42_dispatcher.md R172). -/
  | txProcess
  /-- `ReadIntCounters` (R39, 42_dispatcher.md R173). -/
  | readIntCounters
  /-- `DiagLog(a, b)` (R39, 42_dispatcher.md R173). -/
  | diagLog (a b : IntCount)
  deriving DecidableEq, Repr

/-- What the environment does to the block (00_scope.md R3, 70_reset_and_hazards.md R240). -/
inductive Input where
  /-- A transaction: a command write or a tick, as its format-X word (30_encoding.md R90). -/
  | txn (word : XWord)
  /-- The reset input, "not a transaction" (R240). -/
  | reset
  deriving DecidableEq, Repr

/-- The block's state. The first five fields are its registers (10_state.md R30); `trace` is its output
(R39); `inbox` and `intReads` are the model's own (log entries 4 and 8). -/
structure State where
  /-- `fsm_state` (R31). -/
  fsmState : FsmState
  /-- `audio_seq`, typed `Fin 6` as R32 asks. -/
  audioSeq : Fin 6
  /-- `te` (R33). -/
  te : Bool
  /-- `voice_buf` (R34). -/
  voiceBuf : Frame
  /-- `diag_counter` (R35). -/
  diagCounter : DiagWord
  /-- The output event trace, oldest first (R39, 20_memory.md R78). -/
  trace : List Event
  /-- The model's own: what the environment has issued and the block has not yet performed, oldest first. -/
  inbox : List Input
  /-- The model's own: how many times the interrupt counts have been read. -/
  intReads : Nat
  deriving DecidableEq, Repr

/-- Faults: none. "The block raises no synchronous exception and has no trap" (60_exceptions.md R210). -/
inductive Fault where
  deriving DecidableEq, Repr

/-- Why an instruction has no meaning. -/
inductive Refusal where
  /-- Raised by `exec`'s arm of an instruction that has no meaning yet; no arm does. Safe. -/
  | notModelled (mnemonic : String)
  /-- Raised by FSM_EMIT_VOICE performed by itself while `audio_seq` is 5: its operand is "`audio_seq` in
  0..4" and its increment has "no wrap" (41_sequencer.md R145), so the spec gives it no effect there. No
  DMR_1K tick selects the row at position 5 (30_encoding.md R96). Safe: the model stops (log entry 10). -/
  | voicePositionPastFour
  deriving DecidableEq, Repr

/-- The machine right after reset (70_reset_and_hazards.md R240; 10_state.md section 6). Nothing has been
emitted and nothing is pending. -/
def State.reset : State where
  fsmState := .idle
  audioSeq := 0
  te := false
  voiceBuf := Config.toneRom
  diagCounter := 0#32
  trace := []
  inbox := []
  intReads := 0

end Sys2Proof.Machine
end

