-- ==== Sys2Proof/Machine/Ops.lean ====
section
/-! DEFINITION. The named operations every meaning is written with: register writes, event appending,
ASSEMBLE, EMIT, arming and the reset input. The block takes no exception and returns from none
(60_exceptions.md R210, R217), so there is no such operation. -/

namespace Sys2Proof.Machine

/-- `fsm_state <- f`. -/
def State.setFsmState (s : State) (f : FsmState) : State := { s with fsmState := f }

/-- `audio_seq <- n`. -/
def State.setAudioSeq (s : State) (n : Fin 6) : State := { s with audioSeq := n }

/-- `te <- b`. -/
def State.setTe (s : State) (b : Bool) : State := { s with te := b }

/-- Replace the bytes of `voice_buf`. -/
def State.setVoiceBuf (s : State) (f : Frame) : State := { s with voiceBuf := f }

/-- `diag_counter <- d`. -/
def State.setDiagCounter (s : State) (d : DiagWord) : State := { s with diagCounter := d }

/-- `emit e`: append one record to the trace (00_scope.md R23). -/
def State.emit (s : State) (e : Event) : State := { s with trace := s.trace ++ [e] }

/-- Advance the free value's index after a read of the interrupt counts (log entry 8). -/
def State.countRead (s : State) : State := { s with intReads := s.intReads + 1 }

/-- Replace what is pending from the environment. -/
def State.setInbox (s : State) (q : List Input) : State := { s with inbox := q }

/-- ASSEMBLE(n) (40_assembler.md R120). -/
def State.assemble (s : State) (p : Params) (n : Fin 6) : State := s.setVoiceBuf (patch p n s.voiceBuf)

/-- EMIT(F): the frame by value, with its length `FRAME_BYTES` (40_assembler.md R126, 20_memory.md R72). -/
def State.emitFrame (s : State) (f : Frame) : State := s.emit (.frameOut f Config.frameBytes)

/-- ASSEMBLE(n) and then EMIT(voice_buf), as every voice row begins (41_sequencer.md R145 to R147). -/
def State.sendVoice (s : State) (p : Params) (n : Fin 6) : State :=
  (s.assemble p n).emitFrame (s.assemble p n).voiceBuf

/-- What a WRITE does to `fsm_state` once `te` is written: arming (43_command.md R193); under the alternative
`REARM_POLICY` = RESTART also the restart of a voice run (93_implementation_defined.md U5, log entry 14). -/
def State.arm (s : State) (p : Params) (mode : Mode) : State :=
  if s.te = true ∧ s.fsmState = .idle ∧ mode = .dmr1k then s.setFsmState .vh
  else if s.te = true ∧ s.fsmState = .voice ∧ p.rearmPolicy = .restartHeader then
    (s.setFsmState .vh).setAudioSeq 0
  else s

/-- The reset input (70_reset_and_hazards.md R240): every register takes its reset value; no event is appended,
and what the environment has issued or answered so far is not the block's to undo (log entry 6). -/
def State.applyReset (s : State) : State :=
  ((((s.setFsmState .idle).setAudioSeq 0).setTe false).setVoiceBuf Config.toneRom).setDiagCounter 0#32

end Sys2Proof.Machine
end

