-- ==== Sys2Proof/Machine/Command.lean ====
section
/-! DEFINITION. The command write (43_command.md R190 to R196). -/

namespace Sys2Proof.Machine

/-- The RF interface switch of a WRITE that leaves `te` set (R194). -/
def State.signalRf (s : State) (p : Params) : State :=
  if s.te = true then s.emit (.rfIfConf p.rfDmrTag true) else s

/-- WRITE's pseudocode (R192): write `te` (R192), arm (R193), switch the RF interface (R194), answer (R195). -/
def writeCommand (p : Params) (mode : Mode) (d0 : Byte) (s : State) : State :=
  (((s.setTe (decide (d0 = 0x01#8))).arm p mode).signalRf p).emit (.status statusOk)

/-- WRITE (R192). -/
def execWrite (mode : Mode) (d0 : Byte) (s : State) : Host.Outcome State Fault Refusal :=
  .next (writeCommand hw mode d0 s)

/-- WRITE_BADLEN (R191): `Status(4)` and nothing else; mode, length and byte are not read further. -/
def execWriteBadlen (_mode : Mode) (_len _d0 : Byte) (s : State) : Host.Outcome State Fault Refusal :=
  .next (s.emit (.status statusBadlen))

end Sys2Proof.Machine
end

