-- ==== Sys2Proof/Machine/Flags.lean ====
section
/-! DEFINITION. The block has no status flags (10_state.md R37). The two conditions a DMR_1K tick computes and
does not store, and the decode key they enter (30_encoding.md R94). -/

namespace Sys2Proof.Machine

/-- `space_ok`: `space >= SPACE_MIN`, unsigned (30_encoding.md R94, R95). -/
def spaceOk (p : Params) (space : Space) : Bool := decide (p.spaceMin ≤ space)

/-- `seq5`: `audio_seq == 5` (30_encoding.md R94). -/
def State.seq5 (s : State) : Bool := decide (s.audioSeq = 5)

/-- The decode key of a DMR_1K tick (30_encoding.md R94, 41_sequencer.md R141). -/
def State.key (s : State) (p : Params) (space : Space) : Key :=
  Key.form s.fsmState (spaceOk p space) s.seq5 s.te

end Sys2Proof.Machine
end

