-- ==== Sys2Proof/Machine/Sequencer.lean ====
section
/-! DEFINITION. The calibration state machine: the seven micro-operations (41_sequencer.md R142 to R148) and the
step that selects one (R141). A micro-operation's meaning is its rule's pseudocode; which one runs is FSM_STEP's
choice alone (DEDUCED, log entry 9). -/

namespace Sys2Proof.Machine

/-- FSM_STALL's pseudocode: nothing (R142). -/
def stallRow (s : State) : State := s

/-- FSM_IDLE's pseudocode: nothing (R143). -/
def idleRow (s : State) : State := s

/-- FSM_EMIT_VH's pseudocode (R144). -/
def emitVhRow (p : Params) (s : State) : State := (s.emitFrame p.vhRom).setFsmState .voice

/-- FSM_EMIT_VOICE's pseudocode (R145), on its operand `audio_seq` in 0..4. -/
def emitVoiceRow (p : Params) (s : State) : Host.Outcome State Fault Refusal :=
  match nextPosition s.audioSeq with
  | some n => .next ((s.sendVoice p s.audioSeq).setAudioSeq n)
  | none => .refused .voicePositionPastFour

/-- FSM_VOICE_WRAP_CONT's pseudocode (R146). -/
def wrapContRow (p : Params) (s : State) : State := (s.sendVoice p 5).setAudioSeq 0

/-- FSM_VOICE_WRAP_END's pseudocode (R147). -/
def wrapEndRow (p : Params) (s : State) : State := ((s.sendVoice p 5).setAudioSeq 0).setFsmState .vt

/-- FSM_EMIT_VT's pseudocode (R148). -/
def emitVtRow (p : Params) (s : State) : State := (s.emitFrame p.vtRom).setFsmState .idle

/-- "perform that row's rule" (R141). -/
def performRow (p : Params) (m : MicroOp) (s : State) : Host.Outcome State Fault Refusal :=
  match m with
  | .stall => .next (stallRow s)
  | .idle => .next (idleRow s)
  | .emitVh => .next (emitVhRow p s)
  | .emitVoice => emitVoiceRow p s
  | .voiceWrapCont => .next (wrapContRow p s)
  | .voiceWrapEnd => .next (wrapEndRow p s)
  | .emitVt => .next (emitVtRow p s)

/-- FSM_STEP(space) (R141): form the key, select the one row it matches, perform it. -/
def fsmStep (p : Params) (space : Space) (s : State) : Host.Outcome State Fault Refusal :=
  performRow p (s.key p space).row s

/-- FSM_STALL (R142). The key bits the row does not fix are not read. -/
def execFsmStall (_st : FsmState) (_seq5 _te : Bool) (s : State) : Host.Outcome State Fault Refusal :=
  .next (stallRow s)

/-- FSM_IDLE (R143). -/
def execFsmIdle (_seq5 _te : Bool) (s : State) : Host.Outcome State Fault Refusal := .next (idleRow s)

/-- FSM_EMIT_VH (R144): "`te` is not read". -/
def execFsmEmitVh (_seq5 _te : Bool) (s : State) : Host.Outcome State Fault Refusal :=
  .next (emitVhRow hw s)

/-- FSM_EMIT_VOICE (R145): "`te` is not read". -/
def execFsmEmitVoice (_te : Bool) (s : State) : Host.Outcome State Fault Refusal := emitVoiceRow hw s

/-- FSM_VOICE_WRAP_CONT (R146). -/
def execFsmVoiceWrapCont (s : State) : Host.Outcome State Fault Refusal := .next (wrapContRow hw s)

/-- FSM_VOICE_WRAP_END (R147). -/
def execFsmVoiceWrapEnd (s : State) : Host.Outcome State Fault Refusal := .next (wrapEndRow hw s)

/-- FSM_EMIT_VT (R148): "`te` is not read". -/
def execFsmEmitVt (_seq5 _te : Bool) (s : State) : Host.Outcome State Fault Refusal :=
  .next (emitVtRow hw s)

end Sys2Proof.Machine
end

