-- ==== Sys2Proof/Machine/Dispatcher.lean ====
section
/-! DEFINITION. The tick transactions, one per mode class (42_dispatcher.md R170 to R175). -/

namespace Sys2Proof.Machine

/-- TICK_FULLCAL's pseudocode (R172): forward `te` every tick, pump the transmitter only when it is set. -/
def fullCalTick (s : State) : State :=
  let s1 := s.emit (.calCarrier s.te)
  if s.te = true then s1.emit .txProcess else s1

/-- The log line of the two counts, one of them halved by a logical shift (R173). -/
def diagLine (sel : ShiftSel) (c : IntCount × IntCount) : Event :=
  match sel with
  | .first => .diagLog (c.1 >>> 1) c.2
  | .second => .diagLog c.1 (c.2 >>> 1)

/-- `diag_counter + 1` in 32 bits (R173): "cannot overflow" for a threshold that fits the counter. At 2^32 - 1, where
no rule states the sum, it is a free value (log entry 17). -/
def diagIncrement (p : Params) (c : DiagWord) : DiagWord :=
  if c = 0xFFFFFFFF#32 then p.diagOverflow else c + 1#32

/-- TICK_INTDIAG's pseudocode (R173): increment, compare, and at the threshold reset, read and log. -/
def intDiagTick (p : Params) (s : State) : State :=
  let d := diagIncrement p s.diagCounter
  if p.diagThreshold ≤ d.toNat then
    (((s.setDiagCounter 0#32).emit .readIntCounters).countRead).emit
      (diagLine p.diagShiftSel (p.intCounts s.intReads))
  else s.setDiagCounter d

/-- TICK_OTHER (R174): no-op. -/
def execTickOther (_space : Space) (s : State) : Host.Outcome State Fault Refusal := .next s

/-- TICK_FULLCAL (R172); `space` is ignored. -/
def execTickFullcal (_space : Space) (s : State) : Host.Outcome State Fault Refusal := .next (fullCalTick s)

/-- TICK_DMR1K (R171): FSM_STEP(space), once. -/
def execTickDmr1k (space : Space) (s : State) : Host.Outcome State Fault Refusal := fsmStep hw space s

/-- TICK_INTDIAG (R173); `space` is ignored. -/
def execTickIntdiag (_space : Space) (s : State) : Host.Outcome State Fault Refusal :=
  .next (intDiagTick hw s)

end Sys2Proof.Machine
end

