-- ==== Sys2Proof/Machine/Dispatch.lean ====
section
/-! DEFINITION. One arm per instruction, each a direct call of its meaning. -/

namespace Sys2Proof.Machine

def exec (i : Instr) (s : State) : Host.Outcome State Fault Refusal :=
  match i with
  | .write mode d0 => Sys2Proof.Machine.execWrite mode d0 s
  | .writeBadlen mode len d0 => Sys2Proof.Machine.execWriteBadlen mode len d0 s
  | .tickOther space => Sys2Proof.Machine.execTickOther space s
  | .tickFullcal space => Sys2Proof.Machine.execTickFullcal space s
  | .tickDmr1k space => Sys2Proof.Machine.execTickDmr1k space s
  | .tickIntdiag space => Sys2Proof.Machine.execTickIntdiag space s
  | .fsmStall st seq5 te => Sys2Proof.Machine.execFsmStall st seq5 te s
  | .fsmIdle seq5 te => Sys2Proof.Machine.execFsmIdle seq5 te s
  | .fsmEmitVh seq5 te => Sys2Proof.Machine.execFsmEmitVh seq5 te s
  | .fsmEmitVoice te => Sys2Proof.Machine.execFsmEmitVoice te s
  | .fsmVoiceWrapCont => Sys2Proof.Machine.execFsmVoiceWrapCont s
  | .fsmVoiceWrapEnd => Sys2Proof.Machine.execFsmVoiceWrapEnd s
  | .fsmEmitVt seq5 te => Sys2Proof.Machine.execFsmEmitVt seq5 te s

end Sys2Proof.Machine
end

