-- ==== Sys2Proof/Machine/Environment.lean ====
section
/-! DEFINITION. What the environment does to the block between steps: it issues transactions and resets, which
wait in `inbox` in the order it chose (20_memory.md R77, 60_exceptions.md R216). Also how a state is set up so
that a given code is what the next step performs. -/

namespace Sys2Proof.Machine

/-- The environment issues one input, after everything it issued before. -/
def State.submit (s : State) (i : Input) : State := s.setInbox (s.inbox ++ [i])

/-- The host's `write(data, length)` while its calibration-mode value is `hostMode` (30_encoding.md R92, R93;
00_scope.md R15). -/
def State.hostWrite (s : State) (p : Params) (hostMode : Nat) (data : List Byte) : State :=
  s.submit (.txn (commandWord (p.modeMap hostMode) data))

/-- The scheduler's `tick()` while the host's mode value is `hostMode` and the transmitter reports `space`. -/
def State.hostTick (s : State) (p : Params) (hostMode : Nat) (space : Space) : State :=
  s.submit (.txn (tickWord (p.modeMap hostMode) space))

/-- The reset input (70_reset_and_hazards.md R240). -/
def State.hostReset (s : State) : State := s.submit .reset

/-- A command and a tick offered in the same cycle: the command is performed first (60_exceptions.md R216, D18). -/
def State.offerTogether (s : State) (command tick : XWord) : State :=
  (s.submit (.txn command)).submit (.txn tick)

/-- Make an input the very next one performed. -/
def State.placeNext (s : State) (i : Input) : State := s.setInbox (i :: s.inbox)

/-- An `audio_seq` whose `seq5` bit is `b`: the present one where it already is. -/
def positionWithSeq5 (n : Fin 6) (b : Bool) : Fin 6 :=
  if decide (n = 5) = b then n else if b then 5 else 0

/-- The registers and the tick from which a DMR_1K tick forms the key `k` (30_encoding.md R94): the environment
cannot issue a key, so the state, the position, `te` and the space are set and a tick is placed. -/
def State.placeKey (s : State) (k : Key) : State :=
  (((s.setFsmState (FsmState.ofCode k.state)).setAudioSeq (positionWithSeq5 s.audioSeq k.seq5)).setTe k.te).placeNext
    (.txn (tickWord .dmr1k (if k.spaceOk then 1#16 else 0#16)))

/-- A code made the next thing the machine performs. -/
def State.placeCode (s : State) (c : Code) : State :=
  match c with
  | .x w => s.placeNext (.txn w)
  | .k key => s.placeKey key

/-- The container form of `placeCode`; bits that are no code place nothing. -/
def State.placeNat (s : State) (nbits w : Nat) : State :=
  match codeOfNat nbits w with
  | .ok c => s.placeCode c
  | .error _ => s

end Sys2Proof.Machine
end

