-- ==== Sys2Proof/Machine/Step.lean ====
section
/-! DEFINITION. One step: the oldest pending input is taken and performed completely (00_scope.md R3,
20_memory.md R73, R77). With nothing pending the block "does nothing between transactions and keeps all its
state" (60_exceptions.md R223). -/

namespace Sys2Proof.Machine

/-- One step of the machine (log entries 4, 5 and 6). -/
def step (s : State) : Host.Outcome State Fault Refusal :=
  match s.inbox with
  | [] => .next s
  | .reset :: rest => .next (s.setInbox rest).applyReset
  | .txn w :: rest => exec (decodeTxn w) (s.setInbox rest)

/-- `s` set up so that the next step performs the instruction whose table bits are `w` (log entries 4 and 9). -/
def State.withFetchWord (s : State) (nbits w : Nat) : State := s.placeNat nbits w

end Sys2Proof.Machine
end

