-- ==== Sys2Proof/Machine/Script.lean ====
section
/-! DEFINITION. The transaction-script notation of 30_encoding.md R100: lines, pseudo-instructions, words. -/

namespace Sys2Proof.Machine

/-- One script line (R100). -/
inductive ScriptLine where
  /-- `.mode <class>` -/
  | mode (m : Mode)
  /-- `WRITE <d0>` -/
  | write (d0 : Byte)
  /-- `WRITE.N <len>[, <d0>]` -/
  | writeN (len : Byte) (d0 : Option Byte)
  /-- `TICK <space>` -/
  | tick (space : Space)
  /-- `ARM` -/
  | arm
  /-- `DISARM` -/
  | disarm
  /-- `TICKS <n>, <space>` -/
  | ticks (n : Nat) (space : Space)
  deriving DecidableEq, Repr

/-- The words of one line in the mode in force; pseudo-instructions expand (R100). -/
def ScriptLine.words (m : Mode) (l : ScriptLine) : List XWord :=
  match l with
  | .mode _ => []
  | .write d0 => [XWord.command m 0x01#8 d0]
  | .writeN len d0 => [XWord.command m len (d0.getD 0#8)]
  | .tick sp => [XWord.tick m sp]
  | .arm => [XWord.command m 0x01#8 0x01#8]
  | .disarm => [XWord.command m 0x01#8 0x00#8]
  | .ticks n sp => List.replicate n (XWord.tick m sp)

/-- The mode in force after a line: `.mode` sets it for every following line. -/
def ScriptLine.modeAfter (m : Mode) (l : ScriptLine) : Mode :=
  match l with
  | .mode m' => m'
  | .write _ | .writeN _ _ | .tick _ | .arm | .disarm | .ticks _ _ => m

/-- The words of a script from a mode on. -/
def scriptWordsFrom (m : Mode) (ls : List ScriptLine) : List XWord :=
  match ls with
  | [] => []
  | l :: rest => l.words m ++ scriptWordsFrom (l.modeAfter m) rest

/-- The words of a script: "default after reset in a script is OTHER" (R100). -/
def scriptWords (ls : List ScriptLine) : List XWord := scriptWordsFrom .other ls

end Sys2Proof.Machine
end

