-- ==== Sys2Proof/Safety.lean ====
section
/-! DEFINITION. The terms claims are stated in: the invariants of reachable states, the legal output records,
and the words by their kind. -/

namespace Sys2Proof.Machine

/-- The invariants of 10_state.md R42 (`audio_seq` in 0..5 holds by its type) and R35. -/
structure State.Inv (s : State) (p : Params) : Prop where
  /-- "If `fsm_state` != VOICE, then `audio_seq == 0`." -/
  seq_zero : s.fsmState ≠ .voice → s.audioSeq = 0
  /-- Outside offsets 14..20 the buffer holds the template. -/
  outside : ∀ i : Fin Config.frameBytes, i.val < 14 ∨ 20 < i.val → s.voiceBuf[i] = romRead p.toneRom i
  /-- The bits of byte 14 outside `M14` are the template's. -/
  keep14 : s.voiceBuf[14] &&& ~~~p.m14 = romRead p.toneRom 14 &&& ~~~p.m14
  /-- The bits of byte 20 outside `M20` are the template's. -/
  keep20 : s.voiceBuf[20] &&& ~~~p.m20 = romRead p.toneRom 20 &&& ~~~p.m20
  /-- "Its values stay in `0 .. DIAG_THRESHOLD-1` between transactions" (R35). -/
  diag_below : s.diagCounter.toNat < p.diagThreshold

/-- A record this block can produce: frames of `FRAME_BYTES` bytes (R39), status 0 or 4 (60_exceptions.md R211),
the RF switch only on and only with its tag (43_command.md R194). -/
def Event.legal (p : Params) (e : Event) : Bool :=
  match e with
  | .frameOut _ len => len == Config.frameBytes
  | .status c => c == statusOk || c == statusBadlen
  | .rfIfConf tag on => tag == p.rfDmrTag && on
  | .calCarrier _ => true
  | .txProcess => true
  | .readIntCounters => true
  | .diagLog _ _ => true

/-- The frame of a `FrameOut` record. -/
def Event.frame? (e : Event) : Option Frame :=
  match e with
  | .frameOut b _ => some b
  | .status _ => none
  | .rfIfConf _ _ => none
  | .calCarrier _ => none
  | .txProcess => none
  | .readIntCounters => none
  | .diagLog _ _ => none

/-- The frames of a trace, in order. -/
def framesOf (es : List Event) : List Frame := es.filterMap Event.frame?

/-- Whether a record is a `Status`. -/
def Event.isStatus (e : Event) : Bool :=
  match e with
  | .status _ => true
  | .frameOut _ _ => false
  | .rfIfConf _ _ => false
  | .calCarrier _ => false
  | .txProcess => false
  | .readIntCounters => false
  | .diagLog _ _ => false

/-- `b'` is `b` after ASSEMBLE(n) on this hardware, byte by byte as 40_assembler.md R120 and 20_memory.md R74 say:
the high nibbles of 14 and 20 and the whole bytes 15..19 from entry `n`, every other bit kept. -/
def AssembledFrom (n : Fin 6) (b b' : Frame) : Prop :=
  (∀ i : Fin Config.frameBytes, i.val < 14 ∨ 20 < i.val → b'[i] = b[i]) ∧
    b'[14] = (b[14] &&& 0x0F#8) ||| (embRead hw.embLut n 0 &&& 0xF0#8) ∧
    b'[15] = embRead hw.embLut n 1 ∧
    b'[16] = embRead hw.embLut n 2 ∧
    b'[17] = embRead hw.embLut n 3 ∧
    b'[18] = embRead hw.embLut n 4 ∧
    b'[19] = embRead hw.embLut n 5 ∧
    b'[20] = (b[20] &&& 0x0F#8) ||| (embRead hw.embLut n 6 &&& 0xF0#8)

/-- The voice frames of positions `a` .. 5, in order (41_sequencer.md R150). -/
def voiceFramesFrom (p : Params) (a : Fin 6) : List Frame :=
  ((List.finRange 6).filter fun n => decide (a ≤ n)).map (voiceFrame p)

/-- The next state of an outcome, if it has one. -/
def nextOf (o : Host.Outcome State Fault Refusal) : Option State :=
  match o with
  | .next s => some s
  | .fault _ => none
  | .refused _ => none

/-- The refusal of an outcome, if it is one. -/
def refusalOf (o : Host.Outcome State Fault Refusal) : Option Refusal :=
  match o with
  | .next _ => none
  | .fault _ => none
  | .refused r => some r

/-- An input that is a DMR_1K tick with space for a frame (41_sequencer.md R154). -/
def Input.drives (p : Params) (i : Input) : Bool :=
  match i with
  | .reset => false
  | .txn w =>
    match decodeTxn w with
    | .tickDmr1k sp => spaceOk p sp
    | .write _ _ => false
    | .writeBadlen _ _ _ => false
    | .tickOther _ => false
    | .tickFullcal _ => false
    | .tickIntdiag _ => false
    | .fsmStall _ _ _ => false
    | .fsmIdle _ _ => false
    | .fsmEmitVh _ _ => false
    | .fsmEmitVoice _ => false
    | .fsmVoiceWrapCont => false
    | .fsmVoiceWrapEnd => false
    | .fsmEmitVt _ _ => false

/-- An input that is a command write setting TransmitEnable (43_command.md R192). -/
def Input.enables (i : Input) : Bool :=
  match i with
  | .reset => false
  | .txn w =>
    match decodeTxn w with
    | .write _ d0 => d0 == 0x01#8
    | .writeBadlen _ _ _ => false
    | .tickOther _ => false
    | .tickFullcal _ => false
    | .tickDmr1k _ => false
    | .tickIntdiag _ => false
    | .fsmStall _ _ _ => false
    | .fsmIdle _ _ => false
    | .fsmEmitVh _ _ => false
    | .fsmEmitVoice _ => false
    | .fsmVoiceWrapCont => false
    | .fsmVoiceWrapEnd => false
    | .fsmEmitVt _ _ => false

/-- DMR_1K ticks with space from a state to IDLE while `te` stays clear (41_sequencer.md R154's table). -/
def State.ticksToIdle (s : State) : Nat :=
  match s.fsmState with
  | .idle => 0
  | .vh => 8
  | .voice => 7 - s.audioSeq.val
  | .vt => 1

end Sys2Proof.Machine
end

