-- ==== Sys2Proof/Certificates/Slice0/Obligations.lean ====
section
/-! DEFINITION. The statements for the provers, in the order of OBLIGATIONS.json. Each docstring names the rule of
spec/ it formalises; a record update `{ s with … }` states the frame: every field it does not name is unchanged,
so every byte of `voice_buf` is too. -/

open Sys2Proof Sys2Proof.Machine

/-! ### The transactions -/

/-- 43_command.md R192 to R195: a WRITE is exactly the words `0 mm 00000001 dddddddd`; it sets `te` to
`d0 == 0x01`, arms exactly when all three conditions hold, switches the RF interface when it leaves `te` set, and
answers `Status(0)` last. Nothing else changes. -/
def Obligations.WriteSetsEnableArmsAndAnswers : Prop :=
  (∀ w : XWord, w &&& 0x4FF00#19 = 0x00100#19 ↔ ∃ mode d0, decode (.x w) = .ok (.write mode d0)) ∧
  ∀ (mode : Mode) (d0 : Byte) (s : State),
    exec (.write mode d0) s = .next { s with
      te := decide (d0 = 0x01#8)
      fsmState := if d0 = 0x01#8 ∧ s.fsmState = .idle ∧ mode = .dmr1k then .vh else s.fsmState
      trace := s.trace ++ (if d0 = 0x01#8 then [.rfIfConf hw.rfDmrTag true] else []) ++ [.status 0#8] }

/-- 43_command.md R191: WRITE_BADLEN is every command word that WRITE does not take; it answers `Status(4)` and
writes no state, whatever the mode, the length and the byte. -/
def Obligations.WriteBadlenAnswersFourOnly : Prop :=
  (∀ w : XWord, (w &&& 0x40000#19 = 0x00000#19 ∧ ¬ w &&& 0x4FF00#19 = 0x00100#19) ↔
    ∃ mode len d0, len ≠ 0x01#8 ∧ decode (.x w) = .ok (.writeBadlen mode len d0)) ∧
  ∀ (mode : Mode) (len d0 : Byte) (s : State),
    exec (.writeBadlen mode len d0) s = .next { s with trace := s.trace ++ [.status 4#8] }

/-- 42_dispatcher.md R174: TICK_OTHER does nothing. -/
def Obligations.TickOtherDoesNothing : Prop :=
  (∀ w : XWord, w &&& 0x70000#19 = 0x40000#19 ↔ ∃ space, decode (.x w) = .ok (.tickOther space)) ∧
  ∀ (space : Space) (s : State), exec (.tickOther space) s = .next s

/-- 42_dispatcher.md R172: TICK_FULLCAL emits `CalCarrier(te)` on every tick and then `TxProcess` exactly when
`te` = 1; it writes no register, and `space` is ignored. -/
def Obligations.TickFullcalForwardsEnable : Prop :=
  (∀ w : XWord, w &&& 0x70000#19 = 0x50000#19 ↔ ∃ space, decode (.x w) = .ok (.tickFullcal space)) ∧
  ∀ (space : Space) (s : State),
    exec (.tickFullcal space) s = .next { s with
      trace := s.trace ++ [.calCarrier s.te] ++ (if s.te = true then [.txProcess] else []) }

/-- 42_dispatcher.md R173: TICK_INTDIAG increments the counter; when that reaches the threshold it resets it,
reads the two counts and logs them with the selected one halved. The counts are a free value: the statement
holds for every `intReads`, and nothing is known of `Config.intCounts`. So is the sum at 2^32 - 1, which no rule
states (`Config.diagOverflow`, log entry 17). -/
def Obligations.TickIntdiagCountsAndLogs : Prop :=
  (∀ w : XWord, w &&& 0x70000#19 = 0x70000#19 ↔ ∃ space, decode (.x w) = .ok (.tickIntdiag space)) ∧
  ∀ (space : Space) (s : State),
    exec (.tickIntdiag space) s = .next (
      let d := if s.diagCounter = 0xFFFFFFFF#32 then Config.diagOverflow else s.diagCounter + 1#32
      if d.toNat < hw.diagThreshold then { s with diagCounter := d }
      else { s with
        diagCounter := 0#32
        intReads := s.intReads + 1
        trace := s.trace ++ [.readIntCounters,
          if hw.diagShiftSel = .first then
            .diagLog ((Config.intCounts s.intReads).1 >>> 1) (Config.intCounts s.intReads).2
          else .diagLog (Config.intCounts s.intReads).1 ((Config.intCounts s.intReads).2 >>> 1)] })

/-- 41_sequencer.md R141: a DMR_1K tick performs the one micro-operation whose row the key of 30_encoding.md R94
decodes to; it appends at most one `FrameOut` and no other event. -/
def Obligations.TickDmr1kPerformsTheSelectedRow : Prop :=
  ∀ (space : Space) (s : State),
    ∃ i, decode (.k (0b10#2 ++ s.fsmState.code ++ BitVec.ofBool (decide (1#16 ≤ space)) ++
        BitVec.ofBool (decide (s.audioSeq = 5)) ++ BitVec.ofBool s.te)) = .ok i ∧
      exec (.tickDmr1k space) s = exec i s ∧
      ∃ t es, exec (.tickDmr1k space) s = .next t ∧ t.trace = s.trace ++ es ∧
        (es = [] ∨ ∃ b, es = [.frameOut b 34])

/-- 42_dispatcher.md R171: a DMR_1K tick always completes, and this is all it does: the state and the position it
leaves, the one frame it emits at most, and the bytes it patches, from the rules of 41_sequencer.md. -/
def Obligations.TickDmr1kCompletes : Prop :=
  ∀ (space : Space) (s : State), ∃ t, exec (.tickDmr1k space) s = .next t ∧
    t.fsmState = (if ¬ 1#16 ≤ space then s.fsmState else
      match s.fsmState with
      | .idle => .idle
      | .vh => .voice
      | .voice => if s.audioSeq = 5 ∧ s.te = false then .vt else .voice
      | .vt => .idle) ∧
    t.audioSeq = (if 1#16 ≤ space ∧ s.fsmState = .voice then s.audioSeq + 1 else s.audioSeq) ∧
    (1#16 ≤ space ∧ s.fsmState = .voice → AssembledFrom s.audioSeq s.voiceBuf t.voiceBuf) ∧
    (¬ (1#16 ≤ space ∧ s.fsmState = .voice) → t.voiceBuf = s.voiceBuf) ∧
    t.trace = s.trace ++ (if ¬ 1#16 ≤ space then [] else
      match s.fsmState with
      | .idle => []
      | .vh => [.frameOut vhRom 34]
      | .voice => [.frameOut t.voiceBuf 34]
      | .vt => [.frameOut vtRom 34]) ∧
    t.te = s.te ∧ t.diagCounter = s.diagCounter ∧ t.inbox = s.inbox ∧ t.intReads = s.intReads

/-! ### The micro-operations -/

/-- 41_sequencer.md R142 and R143: FSM_STALL and FSM_IDLE change nothing and emit nothing, in every state. -/
def Obligations.StallAndIdleChangeNothing : Prop :=
  (∀ k : Key, k &&& 0x64#7 = 0x40#7 ↔
    ∃ st seq5 te, decodeTableWord 8 k.toNat = some (.fsmStall st seq5 te)) ∧
  (∀ k : Key, k &&& 0x7C#7 = 0x44#7 ↔ ∃ seq5 te, decodeTableWord 8 k.toNat = some (.fsmIdle seq5 te)) ∧
  (∀ (st : FsmState) (seq5 te : Bool) (s : State), exec (.fsmStall st seq5 te) s = .next s) ∧
  ∀ (seq5 te : Bool) (s : State), exec (.fsmIdle seq5 te) s = .next s

/-- 41_sequencer.md R144: FSM_EMIT_VH emits `VH_ROM` and goes to VOICE; nothing else changes. -/
def Obligations.EmitVhSendsHeader : Prop :=
  (∀ k : Key, k &&& 0x7C#7 = 0x4C#7 ↔ ∃ seq5 te, decodeTableWord 8 k.toNat = some (.fsmEmitVh seq5 te)) ∧
  ∀ (seq5 te : Bool) (s : State),
    exec (.fsmEmitVh seq5 te) s = .next { s with
      fsmState := .voice, trace := s.trace ++ [.frameOut hw.vhRom 34] }

/-- 41_sequencer.md R145: FSM_EMIT_VOICE at a position 0..4 patches the buffer with the entry of that position,
emits the patched buffer, and advances the position by one; nothing else changes. -/
def Obligations.EmitVoiceSendsAndAdvances : Prop :=
  (∀ k : Key, k &&& 0x7E#7 = 0x54#7 ↔ ∃ te, decodeTableWord 8 k.toNat = some (.fsmEmitVoice te)) ∧
  ∀ (te : Bool) (s : State), s.audioSeq.val ≤ 4 →
    ∃ t, exec (.fsmEmitVoice te) s = .next t ∧
      AssembledFrom s.audioSeq s.voiceBuf t.voiceBuf ∧
      t.audioSeq.val = s.audioSeq.val + 1 ∧
      t.trace = s.trace ++ [.frameOut t.voiceBuf 34] ∧
      t.fsmState = s.fsmState ∧ t.te = s.te ∧ t.diagCounter = s.diagCounter ∧
      t.inbox = s.inbox ∧ t.intReads = s.intReads

/-- The model's choice (log entry 10), from 41_sequencer.md R145 "Operands: `audio_seq` in 0..4": performed by
itself at position 5, FSM_EMIT_VOICE has no effect in the spec and the model refuses by name. -/
def Obligations.EmitVoiceRefusesPastFour : Prop :=
  ∀ (te : Bool) (s : State), exec (.fsmEmitVoice te) s = .refused .voicePositionPastFour ↔ s.audioSeq = 5

/-- From 41_sequencer.md, section 2: FSM_VOICE_WRAP_CONT patches with entry 5, emits the patched buffer, and wraps the
position to 0; `fsm_state` and everything else are unchanged. The spec gives the row's operands as `audio_seq` = 5,
`te` = 1; that the same pseudocode runs from every state is the model's (log entry 9, DEDUCED). -/
def Obligations.WrapContSendsFiveAndWraps : Prop :=
  (∀ k : Key, k &&& 0x7F#7 = 0x57#7 ↔ decodeTableWord 8 k.toNat = some .fsmVoiceWrapCont) ∧
  ∀ s : State, ∃ t, exec .fsmVoiceWrapCont s = .next t ∧
    AssembledFrom 5 s.voiceBuf t.voiceBuf ∧
    t.audioSeq = 0 ∧
    t.trace = s.trace ++ [.frameOut t.voiceBuf 34] ∧
    t.fsmState = s.fsmState ∧ t.te = s.te ∧ t.diagCounter = s.diagCounter ∧
    t.inbox = s.inbox ∧ t.intReads = s.intReads

/-- From 41_sequencer.md, section 2: FSM_VOICE_WRAP_END does the same and goes to VT. The spec gives the row's operands
as `audio_seq` = 5, `te` = 0; that the same pseudocode runs from every state is the model's (log entry 9, DEDUCED). -/
def Obligations.WrapEndSendsFiveAndGoesToVt : Prop :=
  (∀ k : Key, k &&& 0x7F#7 = 0x56#7 ↔ decodeTableWord 8 k.toNat = some .fsmVoiceWrapEnd) ∧
  ∀ s : State, ∃ t, exec .fsmVoiceWrapEnd s = .next t ∧
    AssembledFrom 5 s.voiceBuf t.voiceBuf ∧
    t.audioSeq = 0 ∧
    t.fsmState = .vt ∧
    t.trace = s.trace ++ [.frameOut t.voiceBuf 34] ∧
    t.te = s.te ∧ t.diagCounter = s.diagCounter ∧
    t.inbox = s.inbox ∧ t.intReads = s.intReads

/-- 41_sequencer.md R148: FSM_EMIT_VT emits `VT_ROM` and goes to IDLE; nothing else changes, `te` included. -/
def Obligations.EmitVtSendsTerminator : Prop :=
  (∀ k : Key, k &&& 0x7C#7 = 0x5C#7 ↔ ∃ seq5 te, decodeTableWord 8 k.toNat = some (.fsmEmitVt seq5 te)) ∧
  ∀ (seq5 te : Bool) (s : State),
    exec (.fsmEmitVt seq5 te) s = .next { s with
      fsmState := .idle, trace := s.trace ++ [.frameOut hw.vtRom 34] }

/-! ### The assembler -/

/-- 40_assembler.md R120: ASSEMBLE(n) merges entry byte 0 into byte 14 and entry byte 6 into byte 20 under their
masks, copies entry bytes 1..5 into bytes 15..19, and writes nothing else. -/
def Obligations.AssembleWritesThePatchRegion : Prop :=
  ∀ (s : State) (n : Fin 6), AssembledFrom n s.voiceBuf (s.assemble hw n).voiceBuf ∧
    ∃ b, s.assemble hw n = { s with voiceBuf := b }

/-- 40_assembler.md R121: nibble isolation, after any number of calls at any positions, for every mask. -/
def Obligations.NibblesStayIsolated : Prop :=
  ∀ (p : Params) (ns : List (Fin 6)) (b : Frame),
    (ns.foldl (fun b n => patch p n b) b)[14] &&& ~~~p.m14 = b[14] &&& ~~~p.m14 ∧
    (ns.foldl (fun b n => patch p n b) b)[20] &&& ~~~p.m20 = b[20] &&& ~~~p.m20

/-- 40_assembler.md R122: every byte outside offsets 14..20 keeps its value, after any number of calls. -/
def Obligations.OutsideThePatchRegionIsKept : Prop :=
  ∀ (p : Params) (ns : List (Fin 6)) (b : Frame) (i : Fin Config.frameBytes), i.val < 14 ∨ 20 < i.val →
    (ns.foldl (fun b n => patch p n b) b)[i] = b[i]

/-- 40_assembler.md R123: after ASSEMBLE(n) the buffer is `VOICE_FRAME(n)` whatever calls came before. -/
def Obligations.AssembleGivesVoiceFrame : Prop :=
  ∀ (p : Params) (ns : List (Fin 6)) (n : Fin 6),
    patch p n (ns.foldl (fun b k => patch p k b) p.toneRom) = voiceFrame p n

/-- 20_memory.md R64: "The bits of bytes 0 and 6 outside the mask are never read": two parameter sets whose
tables agree on the bits that are read patch alike. -/
def Obligations.MaskedOutEntryBitsAreNeverRead : Prop :=
  ∀ (p q : Params) (n : Fin 6) (b : Frame), p.m14 = q.m14 → p.m20 = q.m20 →
    embRead p.embLut n 0 &&& p.m14 = embRead q.embLut n 0 &&& p.m14 →
    (∀ j : Fin 7, 1 ≤ j.val → j.val ≤ 5 → embRead p.embLut n j = embRead q.embLut n j) →
    embRead p.embLut n 6 &&& p.m20 = embRead q.embLut n 6 &&& p.m20 →
    patch p n b = patch q n b

/-! ### Encoding -/

/-- 30_encoding.md R91 to R97, both directions, with every operand at every value its encoding admits: decoding the
encoding of a well-formed instruction gives it back, and every code that decodes is the encoding of a well-formed
instruction. -/
def Obligations.DecodeAndEncodeAgree : Prop :=
  (∀ i : Instr, i.wellFormed = true → decode (encode i) = .ok i) ∧
  ∀ (c : Code) (i : Instr), decode c = .ok i → i.wellFormed = true ∧ encode i = c

/-- 30_encoding.md R96 and R97: decoding is total and agrees with the mask/match rows: every transaction word decodes
to the first row that takes it, every key of mode 10 to the one row that takes it. The last clause is the model's
choice (log entry 19, DESIGN CHOICE): the spec says only that a key of another mode is never formed, and the model
rejects one by name. -/
def Obligations.DecodingFollowsTheOpcodeMap : Prop :=
  (∀ w : XWord, ∃ i, decode (.x w) = .ok i ∧ firstRow xRows w = some i.mnemonic) ∧
  (∀ k : Key, k.mode = 0b10#2 →
    ∃ i, decode (.k k) = .ok i ∧ (kRows.filter fun r => r.takes k).map OpRow.mnemonic = [i.mnemonic]) ∧
  ∀ k : Key, k.mode ≠ 0b10#2 → decode (.k k) = .error .keyOfOtherMode

/-- 30_encoding.md R101: the spec's own encoding examples, from the script line to the word and from the word to the
instruction. -/
def Obligations.ExampleWordsDecode : Prop :=
  scriptWords [.mode .dmr1k, .arm] = [0x20101#19] ∧
  decodeTableWord 24 0x20101 = some (.write .dmr1k 0x01#8) ∧
  scriptWords [.mode .dmr1k, .tick 1#16] = [0x60001#19] ∧
  decodeTableWord 24 0x60001 = some (.tickDmr1k 1#16) ∧
  scriptWords [.mode .dmr1k, .tick 0#16] = [0x60000#19] ∧
  decodeTableWord 24 0x60000 = some (.tickDmr1k 0#16) ∧
  scriptWords [.mode .other, .writeN 0x02#8 (some 0x01#8)] = [0x00201#19] ∧
  decodeTableWord 24 0x00201 = some (.writeBadlen .other 0x02#8 0x01#8) ∧
  scriptWords [.mode .fullCal, .disarm] = [0x10100#19] ∧
  decodeTableWord 24 0x10100 = some (.write .fullCal 0x00#8)

/-! ### The step -/

/-- 00_scope.md R3 and 30_encoding.md R97: the oldest pending transaction word decodes to a well-formed instruction, and
a step is exactly that instruction performed on the state without the word. -/
def Obligations.StepPerformsTheDecodedWord : Prop :=
  ∀ (s : State) (w : XWord) (rest : List Input), s.inbox = .txn w :: rest →
    ∃ i, decode (.x w) = .ok i ∧ i.wellFormed = true ∧ step s = exec i { s with inbox := rest }

/-- The model's own set-up function (log entries 4 and 9): a table word that decodes is what the next step performs, a
key's micro-operation through the DMR_1K tick that forms it. -/
def Obligations.PlacedTableWordIsPerformed : Prop :=
  ∀ (s : State) (nbits w : Nat) (i : Instr), decodeTableWord nbits w = some i →
    step (s.withFetchWord nbits w) = exec i { s.withFetchWord nbits w with inbox := s.inbox }

/-- 60_exceptions.md R223: with nothing pending the block does nothing and keeps all its state (the pending list is the
model's own, log entries 4 and 5). -/
def Obligations.StepWithNothingPendingKeepsState : Prop :=
  ∀ s : State, s.inbox = [] → step s = .next s

/-- From 70_reset_and_hazards.md, section 1: the state after reset holds every reset value, and the reset input,
whatever the session, writes every register's reset value and appends no event. That it keeps the rest of `inbox`
and `intReads`, the model's own two fields, is the model's choice (log entry 6, DESIGN CHOICE). -/
def Obligations.ResetWritesEveryRegister : Prop :=
  (State.reset.fsmState = .idle ∧ State.reset.audioSeq = 0 ∧ State.reset.te = false ∧
    State.reset.diagCounter = 0#32 ∧
    ∀ i : Fin Config.frameBytes, State.reset.voiceBuf[i] = romRead hw.toneRom i) ∧
  ∀ (s : State) (rest : List Input), s.inbox = .reset :: rest →
    ∃ b : Frame, (∀ i : Fin Config.frameBytes, b[i] = romRead hw.toneRom i) ∧
      step s = .next { s with
        fsmState := .idle, audioSeq := 0, te := false, voiceBuf := b, diagCounter := 0#32, inbox := rest }

/-- 60_exceptions.md R210 and 70_reset_and_hazards.md R249: every step from every state completes; none faults and
none is refused. -/
def Obligations.EveryStepCompletes : Prop :=
  ∀ s : State, ∃ t, step s = .next t

/-- 10_state.md R42 (and R35) at reset. -/
def Obligations.InvariantsHoldAtReset : Prop := State.reset.Inv hw

/-- 10_state.md R42 (and R35): every step keeps the invariants, from every state that meets them. -/
def Obligations.StepKeepsInvariants : Prop :=
  ∀ s t : State, s.Inv hw → step s = .next t → t.Inv hw

/-- 10_state.md R42 (and R35): the invariants hold in every state reachable from reset, whatever transactions and
resets the environment issues, in whatever order. -/
def Obligations.ReachableStatesMeetInvariants : Prop :=
  ∀ (inputs : List Input) (n : Nat) (t : State),
    Host.Core.run core n { State.reset with inbox := inputs } = .next t → t.Inv hw

/-- 42_dispatcher.md R175: no tick of any mode writes `te`, and no tick arms the sequencer; any other step that changes
`te` is a command write of length 1, or the reset input, which is no transaction. -/
def Obligations.NoTickWritesEnableOrArms : Prop :=
  (∀ (s t : State) (w : XWord) (rest : List Input), s.inbox = .txn w :: rest → XWord.kind w = 1#1 →
    step s = .next t → t.te = s.te ∧ (s.fsmState = .idle → t.fsmState = .idle)) ∧
  ∀ s t : State, step s = .next t → t.te ≠ s.te →
    (∃ rest, s.inbox = .reset :: rest) ∨
      ∃ w rest mode d0, s.inbox = .txn w :: rest ∧ decode (.x w) = .ok (.write mode d0)

/-- 10_state.md R33: the only writer of `te` is the command write of length 1, and it writes `d0 == 0x01`. -/
def Obligations.OnlyWriteWritesEnable : Prop :=
  ∀ (i : Instr) (s t : State), exec i s = .next t → t.te ≠ s.te →
    ∃ mode d0, i = .write mode d0 ∧ t.te = decide (d0 = 0x01#8)

/-- 10_state.md R34: only the patcher writes `voice_buf`, which only a voice row or a DMR_1K tick reaches, and it
writes only offsets 14..20. -/
def Obligations.OnlyVoiceRowsWriteTheBuffer : Prop :=
  ∀ (i : Instr) (s t : State), exec i s = .next t →
    (∀ j : Fin Config.frameBytes, j.val < 14 ∨ 20 < j.val → t.voiceBuf[j] = s.voiceBuf[j]) ∧
    (t.voiceBuf ≠ s.voiceBuf →
      (∃ space, i = .tickDmr1k space ∧ s.fsmState = .voice ∧ 1#16 ≤ space) ∨ (∃ te, i = .fsmEmitVoice te) ∨
        i = .fsmVoiceWrapCont ∨ i = .fsmVoiceWrapEnd)

/-- 10_state.md R35: the only writer of `diag_counter` is the INT_DIAG branch. -/
def Obligations.OnlyIntdiagWritesTheCounter : Prop :=
  ∀ (i : Instr) (s t : State), exec i s = .next t → t.diagCounter ≠ s.diagCounter →
    ∃ space, i = .tickIntdiag space

/-- 41_sequencer.md R153: the state machine is frozen outside DMR_1K: a tick in any other mode leaves `fsm_state`,
`audio_seq` and `voice_buf` (and `te`) unchanged and emits no frame, whatever the session. -/
def Obligations.FrozenOutsideDmr1k : Prop :=
  ∀ (s t : State) (w : XWord) (rest : List Input), s.inbox = .txn w :: rest → XWord.kind w = 1#1 →
    XWord.mode w ≠ Mode.dmr1k.code → step s = .next t →
      t.fsmState = s.fsmState ∧ t.audioSeq = s.audioSeq ∧ t.voiceBuf = s.voiceBuf ∧ t.te = s.te ∧
        framesOf t.trace = framesOf s.trace

/-- 41_sequencer.md R140: the only moves of `fsm_state` but by reset, with what makes each: arming by a command write,
the header, the wrap with `te` clear, the terminator. -/
def Obligations.StateMovesOnlyAlongTheTable : Prop :=
  ∀ (s t : State) (w : XWord) (rest : List Input), s.inbox = .txn w :: rest → step s = .next t →
    t.fsmState ≠ s.fsmState →
      (s.fsmState = .idle ∧ t.fsmState = .vh ∧ decode (.x w) = .ok (.write .dmr1k 0x01#8)) ∨
      (∃ space, decode (.x w) = .ok (.tickDmr1k space) ∧ 1#16 ≤ space ∧
        ((s.fsmState = .vh ∧ t.fsmState = .voice) ∨
         (s.fsmState = .voice ∧ t.fsmState = .vt ∧ s.audioSeq = 5 ∧ t.audioSeq = 0 ∧ s.te = false) ∨
         (s.fsmState = .vt ∧ t.fsmState = .idle)))

/-- 20_memory.md R78 and 00_scope.md R23: a step only appends to the trace, at most one `FrameOut`, and none unless it
is a tick. -/
def Obligations.StepAppendsAtMostOneFrame : Prop :=
  ∀ s t : State, step s = .next t →
    ∃ es, t.trace = s.trace ++ es ∧ (framesOf es).length ≤ 1 ∧
      (framesOf es ≠ [] → ∃ w rest, s.inbox = .txn w :: rest ∧ XWord.kind w = 1#1)

/-- 43_command.md R190: a command is decoded by its length alone, 1 to WRITE and any other to WRITE_BADLEN, and appends
exactly one `Status`, as its last event. -/
def Obligations.CommandsEndInOneStatus : Prop :=
  ∀ (s : State) (w : XWord) (rest : List Input), s.inbox = .txn w :: rest → XWord.kind w = 0#1 →
    (∃ mode : Mode, mode.code = XWord.mode w ∧
      step s = exec (if XWord.len w = 0x01#8 then .write mode (XWord.d0 w)
        else .writeBadlen mode (XWord.len w) (XWord.d0 w)) { s with inbox := rest }) ∧
    ∃ t es, step s = .next t ∧ (∀ e ∈ es, e.isStatus = false) ∧
      t.trace = s.trace ++ es ++ [.status (if XWord.len w = 0x01#8 then 0#8 else 4#8)]

/-- 42_dispatcher.md R170: a tick runs exactly one branch, selected by its mode field, and returns no status. -/
def Obligations.TicksRunOneBranchByMode : Prop :=
  ∀ (s : State) (w : XWord) (rest : List Input), s.inbox = .txn w :: rest → XWord.kind w = 1#1 →
    step s = exec (
      if XWord.mode w = 0b10#2 then .tickDmr1k (XWord.space w)
      else if XWord.mode w = 0b01#2 then .tickFullcal (XWord.space w)
      else if XWord.mode w = 0b11#2 then .tickIntdiag (XWord.space w)
      else .tickOther (XWord.space w)) { s with inbox := rest } ∧
    ∃ t es, step s = .next t ∧ (∀ e ∈ es, e.isStatus = false) ∧ t.trace = s.trace ++ es

/-- 10_state.md R39 and 60_exceptions.md R211: every record of the trace stays one this block can produce. -/
def Obligations.TraceStaysLegal : Prop :=
  ∀ s t : State, (∀ e ∈ s.trace, e.legal hw = true) → step s = .next t → ∀ e ∈ t.trace, e.legal hw = true

/-- 10_state.md R36 with 40_assembler.md R123: which frame the next DMR_1K tick with space emits, by the pair
`(fsm_state, audio_seq)`; no other input emits one. -/
def Obligations.EmittedFrameIsThePairs : Prop :=
  ∀ s t : State, s.Inv hw → step s = .next t →
    framesOf t.trace = framesOf s.trace ++
      (if s.inbox.head?.any (Input.drives hw) then
        match s.fsmState with
        | .idle => []
        | .vh => [hw.vhRom]
        | .voice => [voiceFrame hw s.audioSeq]
        | .vt => [hw.vtRom]
      else [])

/-- 00_scope.md R6: the context branches feed nothing back: two states that agree on the sequencer's registers and on
what is pending, and on nothing else, agree on them after a step and emit the same frames. -/
def Obligations.ContextNeverReachesTheSequencer : Prop :=
  ∀ s s' t t' : State, s.fsmState = s'.fsmState → s.audioSeq = s'.audioSeq → s.te = s'.te →
    s.voiceBuf = s'.voiceBuf → s.inbox = s'.inbox → step s = .next t → step s' = .next t' →
      t.fsmState = t'.fsmState ∧ t.audioSeq = t'.audioSeq ∧ t.te = t'.te ∧ t.voiceBuf = t'.voiceBuf ∧
        t.inbox = t'.inbox ∧
        ∃ es es', t.trace = s.trace ++ es ∧ t'.trace = s'.trace ++ es' ∧ framesOf es = framesOf es'

/-- 42_dispatcher.md R171 and 30_encoding.md R95: of `space` only `space >= 1` is read, and only by DMR_1K ticks. -/
def Obligations.SpaceIsReadOnlyAgainstOne : Prop :=
  ∀ (a b : Space) (s : State),
    ((1#16 ≤ a ↔ 1#16 ≤ b) → exec (.tickDmr1k a) s = exec (.tickDmr1k b) s) ∧
    exec (.tickOther a) s = exec (.tickOther b) s ∧
    exec (.tickFullcal a) s = exec (.tickFullcal b) s ∧
    exec (.tickIntdiag a) s = exec (.tickIntdiag b) s

/-- 43_command.md R196, under `REARM_POLICY` = CONTINUE (log entry 14): a WRITE of 1 during a session sets `te`, switches the RF interface and succeeds, and does not
restart the header sequence. With the next two DMR_1K ticks, the first of them with space: in VOICE the run goes on
(at the wrap too); in VH the header is sent once; in VT the terminator is sent and the state then stays IDLE with
`te` = 1. -/
def Obligations.RearmDoesNotRestart : Prop :=
  (∀ (mode : Mode) (s : State), s.fsmState ≠ .idle →
    exec (.write mode 0x01#8) s = .next { s with
      te := true, trace := s.trace ++ [.rfIfConf hw.rfDmrTag true, .status 0#8] }) ∧
  ∀ (mode : Mode) (a b : Space) (s : State) (rest : List Input),
    s.inbox = .txn (commandWord mode [0x01#8]) :: .txn (tickWord .dmr1k a) :: .txn (tickWord .dmr1k b) :: rest →
    s.fsmState ≠ .idle → 1#16 ≤ a →
      ∃ t u, Host.Core.run core 2 s = .next t ∧ step t = .next u ∧
        t.audioSeq = (if s.fsmState = .voice then s.audioSeq + 1 else s.audioSeq) ∧
        framesOf t.trace = framesOf s.trace ++
          [if s.fsmState = .vh then hw.vhRom else if s.fsmState = .vt then hw.vtRom else t.voiceBuf] ∧
        u.te = true ∧ u.fsmState = (if s.fsmState = .vt then .idle else .voice) ∧
        (s.fsmState = .vt → framesOf u.trace = framesOf t.trace)

/-! ### Runs -/

/-- 41_sequencer.md R142: any number of DMR_1K ticks without space leaves the state exactly as it was and emits
nothing. -/
def Obligations.StallsChangeNothingForEver : Prop :=
  ∀ (n : Nat) (s : State) (rest : List Input),
    s.inbox = List.replicate n (.txn (tickWord .dmr1k 0#16)) ++ rest →
      Host.Core.run core n s = .next { s with inbox := rest }

/-- 41_sequencer.md R149: under consecutive DMR_1K ticks with space in VOICE, `te` staying set, the frames carry the
positions in cyclic order and `audio_seq` strictly cycles. -/
def Obligations.PositionsCycle : Prop :=
  ∀ (spaces : List Space) (s : State) (rest : List Input), s.Inv hw → s.fsmState = .voice → s.te = true →
    s.inbox = spaces.map (fun sp => .txn (tickWord .dmr1k sp)) ++ rest → (∀ sp ∈ spaces, 1#16 ≤ sp) →
      ∃ t, Host.Core.run core spaces.length s = .next t ∧ t.fsmState = .voice ∧ t.te = true ∧ t.inbox = rest ∧
        t.audioSeq.val = (s.audioSeq.val + spaces.length) % 6 ∧
        framesOf t.trace = framesOf s.trace ++ (List.range spaces.length).map
          fun k => voiceFrame hw ⟨(s.audioSeq.val + k) % 6, Nat.mod_lt _ (by decide)⟩

/-- 41_sequencer.md R150: a disarm is honoured only at the wrap. From VH or VOICE with `te` clear and no enabling
write, whatever else arrives, when the session first reaches VT it has emitted the header if it was pending and the
voice frames of every position from the present one up to and including 5. -/
def Obligations.DisarmIsHonouredOnlyAtTheWrap : Prop :=
  ∀ (n : Nat) (s t : State), s.Inv hw → s.te = false → (s.fsmState = .vh ∨ s.fsmState = .voice) →
    (∀ i ∈ s.inbox, i ≠ .reset ∧ i.enables = false) →
    Host.Core.run core n s = .next t → t.fsmState = .vt →
    (∀ j < n, ∀ u : State, Host.Core.run core j s = .next u → u.fsmState ≠ .vt) →
      framesOf t.trace = framesOf s.trace ++ (if s.fsmState = .vh then [hw.vhRom] else []) ++
        voiceFramesFrom hw s.audioSeq

/-- 41_sequencer.md R151 and R152: the frames of a session, from VH to the next IDLE, are one header, then the six
voice frames in order `k` times for some `k >= 1`, then one terminator. -/
def Obligations.SessionHasItsShape : Prop :=
  ∀ (n : Nat) (s t : State), s.Inv hw → s.fsmState = .vh → (∀ i ∈ s.inbox, i ≠ .reset) →
    Host.Core.run core n s = .next t → t.fsmState = .idle →
    (∀ j < n, ∀ u : State, Host.Core.run core j s = .next u → u.fsmState ≠ .idle) →
      ∃ k, 1 ≤ k ∧ framesOf t.trace = framesOf s.trace ++
        ([hw.vhRom] ++ (List.replicate k ((List.finRange 6).map (voiceFrame hw))).flatten ++ [hw.vtRom])

/-- 41_sequencer.md R154: with `te` clear and no enabling write, each DMR_1K tick with space brings IDLE one tick
nearer and nothing else does, so the session ends after exactly the number of such ticks the table gives, at most 8. -/
def Obligations.DisarmedSessionReachesIdle : Prop :=
  ∀ (s : State), s.Inv hw → s.te = false → (∀ i ∈ s.inbox, i ≠ .reset ∧ i.enables = false) →
    ∃ t, Host.Core.run core s.inbox.length s = .next t ∧ t.te = false ∧ s.ticksToIdle ≤ 8 ∧
      t.ticksToIdle = s.ticksToIdle - s.inbox.countP (Input.drives hw) ∧
      (s.ticksToIdle ≤ s.inbox.countP (Input.drives hw) ↔ t.fsmState = .idle)

/-- 42_dispatcher.md R173: from a counter of 0 the diagnostic logs exactly once every `DIAG_THRESHOLD` ticks, for
every threshold that fits the counter, and emits nothing before. -/
def Obligations.DiagnosticLogsOncePerWindow : Prop :=
  ∀ (p : Params) (s : State), 0 < p.diagThreshold → p.diagThreshold ≤ 2 ^ 32 - 1 → s.diagCounter = 0#32 →
    (∀ k < p.diagThreshold,
      (intDiagTick p)^[k] s = { s with diagCounter := BitVec.ofNat 32 k }) ∧
    (intDiagTick p)^[p.diagThreshold] s = { s with
      intReads := s.intReads + 1
      trace := s.trace ++ [.readIntCounters, diagLine p.diagShiftSel (p.intCounts s.intReads)] }

/-! ### The environment's side -/

/-- From 43_command.md and 30_encoding.md, sections 1 and 5: what the host's `write(data, length)` comes to, for data of
any length: a one-byte payload is performed as WRITE in the class of the host's mode, any other is rejected with
`Status(4)`. For more than 255 bytes this rests on the model's choice of the length field (log entry 25, DESIGN
CHOICE, unsafe). -/
def Obligations.HostWriteIsDecodedByLength : Prop :=
  ∀ (s : State) (hostMode : Nat) (data : List Byte), s.inbox = [] →
    (∀ d, data = [d] →
      step (s.hostWrite hw hostMode data) = exec (.write (Config.modeMap hostMode) d) s) ∧
    (data.length ≠ 1 →
      step (s.hostWrite hw hostMode data) = .next { s with trace := s.trace ++ [.status 4#8] })

/-- 60_exceptions.md R216 (the spec's decision D18, log entry 21): a command and a tick offered in the same cycle: the command is performed first, so an arming
offered with a DMR_1K tick with space gives the header at that very tick. -/
def Obligations.CommandOfferedWithTickGoesFirst : Prop :=
  ∀ (s : State) (command tick : XWord), s.inbox = [] →
    (∃ i, decode (.x command) = .ok i ∧
      step (s.offerTogether command tick) = exec i { s with inbox := [.txn tick] }) ∧
    (s.fsmState = .idle → ∀ space, 1#16 ≤ space →
      ∃ t, Host.Core.run core 2 (s.offerTogether (commandWord .dmr1k [0x01#8]) (tickWord .dmr1k space)) = .next t ∧
        t.fsmState = .voice ∧ t.te = true ∧ t.inbox = [] ∧ framesOf t.trace = framesOf s.trace ++ [hw.vhRom])
end

