-- ==== Sys2Proof/Laws/Decode.lean ====
section
/-! SUPPORT. The codes of the enumerations, and what each field of a formed word or key reads as. -/

namespace Sys2Proof

@[simp] theorem Mode.ofCode_code (m : Mode) : Mode.ofCode m.code = m := by cases m <;> decide

@[simp] theorem Mode.code_ofCode (c : BitVec 2) : (Mode.ofCode c).code = c := by
  revert c
  decide

@[simp] theorem FsmState.ofCode_code (f : FsmState) : FsmState.ofCode f.code = f := by cases f <;> decide

@[simp] theorem FsmState.code_ofCode (c : BitVec 2) : (FsmState.ofCode c).code = c := by
  revert c
  decide

/-! ### Words and fields as numbers -/

theorem append_toNat {a b : Nat} (x : BitVec a) (y : BitVec b) :
    (x ++ y).toNat = x.toNat * 2 ^ b + y.toNat := by
  rw [BitVec.toNat_append, ← Nat.shiftLeft_add_eq_or_of_lt y.isLt, Nat.shiftLeft_eq]

variable (m : Mode) (len d0 : Byte) (sp : Space) (w : XWord)

theorem XWord.kind_toNat : (XWord.kind w).toNat = w.toNat / 262144 % 2 := by
  simp [XWord.kind, BitVec.extractLsb'_toNat, Nat.shiftRight_eq_div_pow]

theorem XWord.mode_toNat : (XWord.mode w).toNat = w.toNat / 65536 % 4 := by
  simp [XWord.mode, BitVec.extractLsb'_toNat, Nat.shiftRight_eq_div_pow]

theorem XWord.len_toNat : (XWord.len w).toNat = w.toNat / 256 % 256 := by
  simp [XWord.len, BitVec.extractLsb'_toNat, Nat.shiftRight_eq_div_pow]

theorem XWord.d0_toNat : (XWord.d0 w).toNat = w.toNat % 256 := by
  simp [XWord.d0, BitVec.extractLsb'_toNat]

theorem XWord.space_toNat : (XWord.space w).toNat = w.toNat % 65536 := by
  simp [XWord.space, BitVec.extractLsb'_toNat]

theorem XWord.command_toNat :
    (XWord.command m len d0).toNat = m.code.toNat * 65536 + len.toNat * 256 + d0.toNat := by
  have h1 := append_toNat (0#1 ++ m.code ++ len) d0
  have h2 := append_toNat (0#1 ++ m.code) len
  have h3 := append_toNat 0#1 m.code
  have : (XWord.command m len d0).toNat = (0#1 ++ m.code ++ len ++ d0).toNat := rfl
  rw [this, h1, h2, h3]
  simp
  omega

theorem XWord.tick_toNat :
    (XWord.tick m sp).toNat = 262144 + m.code.toNat * 65536 + sp.toNat := by
  have h1 := append_toNat (1#1 ++ m.code) sp
  have h2 := append_toNat 1#1 m.code
  have : (XWord.tick m sp).toNat = (1#1 ++ m.code ++ sp).toNat := rfl
  rw [this, h1, h2]
  simp
  omega

/-! ### Fields of a command word (30_encoding.md R91, R92) -/

@[simp] theorem XWord.command_kind : XWord.kind (XWord.command m len d0) = 0#1 := by
  apply BitVec.eq_of_toNat_eq
  rw [XWord.kind_toNat, XWord.command_toNat]
  have := m.code.isLt; have := len.isLt; have := d0.isLt
  simp
  omega

@[simp] theorem XWord.command_mode : XWord.mode (XWord.command m len d0) = m.code := by
  apply BitVec.eq_of_toNat_eq
  rw [XWord.mode_toNat, XWord.command_toNat]
  have := m.code.isLt; have := len.isLt; have := d0.isLt
  omega

@[simp] theorem XWord.command_len : XWord.len (XWord.command m len d0) = len := by
  apply BitVec.eq_of_toNat_eq
  rw [XWord.len_toNat, XWord.command_toNat]
  have := m.code.isLt; have := len.isLt; have := d0.isLt
  omega

@[simp] theorem XWord.command_d0 : XWord.d0 (XWord.command m len d0) = d0 := by
  apply BitVec.eq_of_toNat_eq
  rw [XWord.d0_toNat, XWord.command_toNat]
  have := m.code.isLt; have := len.isLt; have := d0.isLt
  omega

/-! ### Fields of a tick word -/

@[simp] theorem XWord.tick_kind : XWord.kind (XWord.tick m sp) = 1#1 := by
  apply BitVec.eq_of_toNat_eq
  rw [XWord.kind_toNat, XWord.tick_toNat]
  have := m.code.isLt; have := sp.isLt
  simp
  omega

@[simp] theorem XWord.tick_mode : XWord.mode (XWord.tick m sp) = m.code := by
  apply BitVec.eq_of_toNat_eq
  rw [XWord.mode_toNat, XWord.tick_toNat]
  have := m.code.isLt; have := sp.isLt
  omega

@[simp] theorem XWord.tick_space : XWord.space (XWord.tick m sp) = sp := by
  apply BitVec.eq_of_toNat_eq
  rw [XWord.space_toNat, XWord.tick_toNat]
  have := m.code.isLt; have := sp.isLt
  omega

/-- What a command word decodes to (R96, R97). -/
@[simp] theorem decodeTxn_command : decodeTxn (XWord.command m len d0) = commandRow m len d0 := by
  simp [decodeTxn]

/-- What a tick word decodes to (R96). -/
@[simp] theorem decodeTxn_tick : decodeTxn (XWord.tick m sp) = tickRow m sp := by
  simp [decodeTxn]

/-- A word of kind 0 is the command word of its own fields (R91, R92). -/
theorem XWord.eq_command (h : XWord.kind w = 0#1) :
    XWord.command (Mode.ofCode (XWord.mode w)) (XWord.len w) (XWord.d0 w) = w := by
  apply BitVec.eq_of_toNat_eq
  have hk := congrArg BitVec.toNat h
  rw [XWord.kind_toNat] at hk
  rw [XWord.command_toNat, Mode.code_ofCode, XWord.mode_toNat, XWord.len_toNat, XWord.d0_toNat]
  have := w.isLt
  simp at hk
  omega

/-- A word of kind 1 is the tick word of its own fields (R91, R92). -/
theorem XWord.eq_tick (h : XWord.kind w ≠ 0#1) :
    XWord.tick (Mode.ofCode (XWord.mode w)) (XWord.space w) = w := by
  apply BitVec.eq_of_toNat_eq
  have hk : (XWord.kind w).toNat ≠ 0 := fun hc => h (BitVec.eq_of_toNat_eq (by simpa using hc))
  rw [XWord.kind_toNat] at hk
  rw [XWord.tick_toNat, Mode.code_ofCode, XWord.mode_toNat, XWord.space_toNat]
  have := w.isLt
  omega

/-- Every word is a command word or a tick word (R91, R97). -/
theorem XWord.command_or_tick :
    (∃ m len d0, w = XWord.command m len d0) ∨ ∃ m sp, w = XWord.tick m sp := by
  by_cases h : XWord.kind w = 0#1
  · exact .inl ⟨_, _, _, (XWord.eq_command w h).symm⟩
  · exact .inr ⟨_, _, (XWord.eq_tick w h).symm⟩

/-! ### The rows' masks and the fields (30_encoding.md R96) -/

/-- One bit of a masked word. -/
theorem bits_and (w m : XWord) (i : Nat) (_hi : i < 19) : (w &&& m).getLsbD i = (w.getLsbD i && m.getLsbD i) := by simp

/-- A tick row takes a word exactly by its kind and mode (R96). -/
theorem mask_tick (w : XWord) (c : BitVec 2) :
    w &&& 0x70000#19 = (1#1 ++ c ++ 0#16 : BitVec 19) ↔ XWord.kind w = 1#1 ∧ XWord.mode w = c := by
  have hb : ∀ i, i < 19 → (1#1 ++ c ++ 0#16 : BitVec 19).getLsbD i = if i = 18 then true else if 16 ≤ i then c.getLsbD (i-16) else false := by
    revert c; decide
  have hm : ∀ i, i < 19 → (0x70000#19).getLsbD i = decide (16 ≤ i) := by decide
  constructor
  · intro h
    have h' : ∀ i, i < 19 → (w.getLsbD i && decide (16 ≤ i)) = if i = 18 then true else if 16 ≤ i then c.getLsbD (i-16) else false := by
      intro i hi
      rw [← hb i hi, ← h, bits_and w _ i hi, hm i hi]
    constructor
    · apply BitVec.eq_of_getLsbD_eq
      intro i hi
      have := h' 18 (by omega)
      interval_cases i
      simpa [XWord.kind] using this
    · apply BitVec.eq_of_getLsbD_eq
      intro i hi
      have := h' (16 + i) (by omega)
      interval_cases i <;> simpa [XWord.mode] using this
  · rintro ⟨h1, h2⟩
    apply BitVec.eq_of_getLsbD_eq
    intro i hi
    rw [hb i hi, bits_and w _ i hi, hm i hi]
    by_cases h16 : 16 ≤ i
    · by_cases h18 : i = 18
      · have := congrArg (fun v : BitVec 1 => v.getLsbD 0) h1
        subst h18
        simpa [XWord.kind] using this
      · have := congrArg (fun v : BitVec 2 => v.getLsbD (i - 16)) h2
        have hlt : i - 16 < 2 := by omega
        have he : 16 + (i - 16) = i := by omega
        simpa [XWord.mode, h16, h18, hlt, he] using this
    · have : i ≠ 18 := by omega
      simp [h16, this]

/-- WRITE_BADLEN's mask reads the kind alone (R96). -/
theorem mask_kind (w : XWord) : w &&& 0x40000#19 = 0#19 ↔ XWord.kind w = 0#1 := by
  have hm : ∀ i, i < 19 → (0x40000#19).getLsbD i = decide (i = 18) := by decide
  constructor
  · intro h
    apply BitVec.eq_of_getLsbD_eq
    intro i hi
    have := congrArg (fun v : BitVec 19 => v.getLsbD 18) h
    interval_cases i
    simpa [XWord.kind, hm] using this
  · intro h
    have := congrArg (fun v : BitVec 1 => v.getLsbD 0) h
    apply BitVec.eq_of_getLsbD_eq
    intro i hi
    rw [bits_and w _ i hi, hm i hi]
    by_cases h18 : i = 18
    · subst h18; simpa [XWord.kind] using this
    · simp [h18]

/-- WRITE's row takes a word exactly by its kind and length (R96). -/
theorem mask_write (w : XWord) : w &&& 0x4FF00#19 = 0x00100#19 ↔ XWord.kind w = 0#1 ∧ XWord.len w = 1#8 := by
  have hm : ∀ i, i < 19 → (0x4FF00#19).getLsbD i = decide (i = 18 ∨ (8 ≤ i ∧ i < 16)) := by decide
  have hp : ∀ i, i < 19 → (0x00100#19).getLsbD i = decide (i = 8) := by decide
  have h1p : ∀ i, i < 8 → (1#8).getLsbD i = decide (i = 0) := by decide
  constructor
  · intro h
    have h' : ∀ i, i < 19 → (w.getLsbD i && decide (i = 18 ∨ (8 ≤ i ∧ i < 16))) = decide (i = 8) := by
      intro i hi
      rw [← hp i hi, ← h, bits_and w _ i hi, hm i hi]
    constructor
    · apply BitVec.eq_of_getLsbD_eq
      intro i hi
      have := h' 18 (by omega)
      interval_cases i
      simpa [XWord.kind] using this
    · apply BitVec.eq_of_getLsbD_eq
      intro i hi
      have := h' (8 + i) (by omega)
      rw [h1p i hi]
      have h8 : 8 ≤ 8 + i ∧ 8 + i < 16 := by omega
      simpa [XWord.len, h8, hi] using this
  · rintro ⟨h1, h2⟩
    apply BitVec.eq_of_getLsbD_eq
    intro i hi
    rw [hp i hi, bits_and w _ i hi, hm i hi]
    by_cases h18 : i = 18
    · have := congrArg (fun v : BitVec 1 => v.getLsbD 0) h1
      subst h18
      simpa [XWord.kind] using this
    · by_cases h8 : 8 ≤ i ∧ i < 16
      · have := congrArg (fun v : BitVec 8 => v.getLsbD (i - 8)) h2
        have hlt : i - 8 < 8 := by omega
        have he : 8 + (i - 8) = i := by omega
        simp only [h1p _ hlt] at this
        simp [XWord.len, he, hlt] at this
        rw [this]
        simp [h18, h8]
        omega
      · have : i ≠ 8 := by omega
        simp [h18, h8, this]

/-- A command word decodes by its length (R97). -/
theorem decodeTxn_kind0 {w : XWord} (h : XWord.kind w = 0#1) : decodeTxn w = commandRow (Mode.ofCode (XWord.mode w)) (XWord.len w) (XWord.d0 w) := by
  simp [decodeTxn, h]

/-- The kind is one bit (R91). -/
theorem kind_ne {w : XWord} : XWord.kind w ≠ 0#1 ↔ XWord.kind w = 1#1 := by
  generalize XWord.kind w = k; revert k; decide

/-- A tick word decodes by its mode (R96). -/
theorem decodeTxn_kind1 {w : XWord} (h : XWord.kind w = 1#1) : decodeTxn w = tickRow (Mode.ofCode (XWord.mode w)) (XWord.space w) := by
  simp [decodeTxn, h]

/-! ### The decode key (30_encoding.md R94) -/

/-- A formed key decodes to the row its parts select, with its parts as operands. -/
theorem decode_form (f : FsmState) (a q t : Bool) :
    decode (.k (Key.form f a q t)) = .ok ((selectRow f a q t).toInstr f q t) := by
  cases f <;> cases a <;> cases q <;> cases t <;> rfl

@[simp] theorem Key.form_row (f : FsmState) (a q t : Bool) : (Key.form f a q t).row = selectRow f a q t := by
  cases f <;> cases a <;> cases q <;> cases t <;> rfl

/-- A key of mode DMR_1K is formed from its own parts. -/
theorem Key.eq_form (k : Key) (h : k.mode = 0b10#2) :
    Key.form (FsmState.ofCode k.state) k.spaceOk k.seq5 k.te = k := by
  revert k
  decide

end Sys2Proof
end

