-- ==== Sys2Proof/Laws/Operands.lean ====
section
/-! SUPPORT. What the patcher does to a frame, byte by byte, and the small facts about positions, masks and the
hardware's parameters. -/

namespace Sys2Proof.Machine

variable (p : Params) (n : Fin 6) (b : Frame)

/-- ASSEMBLE writes no byte outside the patch region (40_assembler.md R122). -/
theorem patch_outside (i : Nat) (hi : i < Config.frameBytes) (h : i < 14 ∨ 20 < i) :
    (patch p n b)[i] = b[i] := by
  simp only [patch]
  repeat rw [Vector.getElem_set_ne _ _ (by omega)]

/-- Byte 14 after ASSEMBLE (R120). -/
theorem patch_14 : (patch p n b)[14] = mergeMasked p.m14 b[14] (embRead p.embLut n 0) := by
  simp [patch]

/-- Bytes 15..19 after ASSEMBLE (R120). -/
theorem patch_mid (i : Nat) (hi : i < Config.frameBytes) (h : 15 ≤ i ∧ i ≤ 19) :
    (patch p n b)[i] = embRead p.embLut n ⟨i - 14, by omega⟩ := by
  obtain ⟨h1, h2⟩ := h
  have : i = 15 ∨ i = 16 ∨ i = 17 ∨ i = 18 ∨ i = 19 := by omega
  rcases this with rfl | rfl | rfl | rfl | rfl <;> simp [patch]

/-- Byte 20 after ASSEMBLE (R120). -/
theorem patch_20 : (patch p n b)[20] = mergeMasked p.m20 b[20] (embRead p.embLut n 6) := by
  simp [patch]

/-- A masked merge leaves the bits outside the mask. -/
theorem mergeMasked_keep (m dst src : Byte) : mergeMasked m dst src &&& ~~~m = dst &&& ~~~m := by
  apply BitVec.eq_of_getLsbD_eq
  intro i hi
  simp only [mergeMasked, BitVec.getLsbD_and, BitVec.getLsbD_or, BitVec.getLsbD_not]
  cases dst.getLsbD i <;> cases src.getLsbD i <;> cases m.getLsbD i <;> simp [hi]

/-- A masked merge takes the bits under the mask from the source. -/
theorem mergeMasked_take (m dst src : Byte) : mergeMasked m dst src &&& m = src &&& m := by
  apply BitVec.eq_of_getLsbD_eq
  intro i hi
  simp only [mergeMasked, BitVec.getLsbD_and, BitVec.getLsbD_or, BitVec.getLsbD_not]
  cases dst.getLsbD i <;> cases src.getLsbD i <;> cases m.getLsbD i <;> simp [hi]

/-- A masked merge depends on the destination only through the bits outside the mask. -/
theorem mergeMasked_congr {m d d' : Byte} (h : d &&& ~~~m = d' &&& ~~~m) (src : Byte) :
    mergeMasked m d src = mergeMasked m d' src := by
  simp [mergeMasked, h]

/-- `audio_seq + 1` exists exactly below 5 (41_sequencer.md R145). -/
theorem nextPosition_of_lt {n : Fin 6} (h : n.val < 5) : nextPosition n = some ⟨n.val + 1, by omega⟩ := by
  have h' : n.val + 1 < 6 := by omega
  simp only [nextPosition, dif_pos h']

theorem nextPosition_five : nextPosition 5 = none := rfl

/-- Whatever `nextPosition` answers is the successor. -/
theorem nextPosition_some {n k : Fin 6} (h : nextPosition n = some k) : n.val < 5 ∧ k.val = n.val + 1 := by
  unfold nextPosition at h
  split at h <;> simp_all
  constructor
  · omega
  · rw [← h]

@[simp] theorem hw_vhRom : hw.vhRom = vhRom := rfl
@[simp] theorem hw_vtRom : hw.vtRom = vtRom := rfl
@[simp] theorem hw_toneRom : hw.toneRom = Config.toneRom := rfl
@[simp] theorem hw_m14 : hw.m14 = 0xF0#8 := rfl
@[simp] theorem hw_m20 : hw.m20 = 0xF0#8 := rfl
@[simp] theorem hw_spaceMin : hw.spaceMin = 1#16 := rfl
@[simp] theorem hw_rearmPolicy : hw.rearmPolicy = .continueRun := rfl

/-- The diagnostic threshold is positive (00_scope.md R18). -/
theorem hw_diagThreshold_pos : 0 < hw.diagThreshold := Nat.succ_pos _

/-- `space_ok` on this hardware: a nonzero space count (00_scope.md R14). -/
theorem spaceOk_hw (sp : Space) : spaceOk hw sp = decide (sp ≠ 0#16) := by
  simp only [spaceOk, hw_spaceMin]
  congr 1
  apply propext
  constructor <;> intro h <;> bv_omega

end Sys2Proof.Machine
end

