-- ==== Sys2Proof/Laws/State.lean ====
section
/-! SUPPORT. One lemma per field per register write, and the fields of the state after reset: later proofs
rewrite with these and never unfold a record update. -/

namespace Sys2Proof.Machine

variable (s : State)

@[simp] theorem State.setFsmState_fsmState (f : FsmState) : (s.setFsmState f).fsmState = f := rfl
@[simp] theorem State.setFsmState_audioSeq (f : FsmState) : (s.setFsmState f).audioSeq = s.audioSeq := rfl
@[simp] theorem State.setFsmState_te (f : FsmState) : (s.setFsmState f).te = s.te := rfl
@[simp] theorem State.setFsmState_voiceBuf (f : FsmState) : (s.setFsmState f).voiceBuf = s.voiceBuf := rfl
@[simp] theorem State.setFsmState_diagCounter (f : FsmState) : (s.setFsmState f).diagCounter = s.diagCounter := rfl
@[simp] theorem State.setFsmState_trace (f : FsmState) : (s.setFsmState f).trace = s.trace := rfl
@[simp] theorem State.setFsmState_inbox (f : FsmState) : (s.setFsmState f).inbox = s.inbox := rfl
@[simp] theorem State.setFsmState_intReads (f : FsmState) : (s.setFsmState f).intReads = s.intReads := rfl

@[simp] theorem State.setAudioSeq_fsmState (n : Fin 6) : (s.setAudioSeq n).fsmState = s.fsmState := rfl
@[simp] theorem State.setAudioSeq_audioSeq (n : Fin 6) : (s.setAudioSeq n).audioSeq = n := rfl
@[simp] theorem State.setAudioSeq_te (n : Fin 6) : (s.setAudioSeq n).te = s.te := rfl
@[simp] theorem State.setAudioSeq_voiceBuf (n : Fin 6) : (s.setAudioSeq n).voiceBuf = s.voiceBuf := rfl
@[simp] theorem State.setAudioSeq_diagCounter (n : Fin 6) : (s.setAudioSeq n).diagCounter = s.diagCounter := rfl
@[simp] theorem State.setAudioSeq_trace (n : Fin 6) : (s.setAudioSeq n).trace = s.trace := rfl
@[simp] theorem State.setAudioSeq_inbox (n : Fin 6) : (s.setAudioSeq n).inbox = s.inbox := rfl
@[simp] theorem State.setAudioSeq_intReads (n : Fin 6) : (s.setAudioSeq n).intReads = s.intReads := rfl

@[simp] theorem State.setTe_fsmState (b : Bool) : (s.setTe b).fsmState = s.fsmState := rfl
@[simp] theorem State.setTe_audioSeq (b : Bool) : (s.setTe b).audioSeq = s.audioSeq := rfl
@[simp] theorem State.setTe_te (b : Bool) : (s.setTe b).te = b := rfl
@[simp] theorem State.setTe_voiceBuf (b : Bool) : (s.setTe b).voiceBuf = s.voiceBuf := rfl
@[simp] theorem State.setTe_diagCounter (b : Bool) : (s.setTe b).diagCounter = s.diagCounter := rfl
@[simp] theorem State.setTe_trace (b : Bool) : (s.setTe b).trace = s.trace := rfl
@[simp] theorem State.setTe_inbox (b : Bool) : (s.setTe b).inbox = s.inbox := rfl
@[simp] theorem State.setTe_intReads (b : Bool) : (s.setTe b).intReads = s.intReads := rfl

@[simp] theorem State.setVoiceBuf_fsmState (v : Frame) : (s.setVoiceBuf v).fsmState = s.fsmState := rfl
@[simp] theorem State.setVoiceBuf_audioSeq (v : Frame) : (s.setVoiceBuf v).audioSeq = s.audioSeq := rfl
@[simp] theorem State.setVoiceBuf_te (v : Frame) : (s.setVoiceBuf v).te = s.te := rfl
@[simp] theorem State.setVoiceBuf_voiceBuf (v : Frame) : (s.setVoiceBuf v).voiceBuf = v := rfl
@[simp] theorem State.setVoiceBuf_diagCounter (v : Frame) : (s.setVoiceBuf v).diagCounter = s.diagCounter := rfl
@[simp] theorem State.setVoiceBuf_trace (v : Frame) : (s.setVoiceBuf v).trace = s.trace := rfl
@[simp] theorem State.setVoiceBuf_inbox (v : Frame) : (s.setVoiceBuf v).inbox = s.inbox := rfl
@[simp] theorem State.setVoiceBuf_intReads (v : Frame) : (s.setVoiceBuf v).intReads = s.intReads := rfl

@[simp] theorem State.setDiagCounter_fsmState (d : DiagWord) : (s.setDiagCounter d).fsmState = s.fsmState := rfl
@[simp] theorem State.setDiagCounter_audioSeq (d : DiagWord) : (s.setDiagCounter d).audioSeq = s.audioSeq := rfl
@[simp] theorem State.setDiagCounter_te (d : DiagWord) : (s.setDiagCounter d).te = s.te := rfl
@[simp] theorem State.setDiagCounter_voiceBuf (d : DiagWord) : (s.setDiagCounter d).voiceBuf = s.voiceBuf := rfl
@[simp] theorem State.setDiagCounter_diagCounter (d : DiagWord) : (s.setDiagCounter d).diagCounter = d := rfl
@[simp] theorem State.setDiagCounter_trace (d : DiagWord) : (s.setDiagCounter d).trace = s.trace := rfl
@[simp] theorem State.setDiagCounter_inbox (d : DiagWord) : (s.setDiagCounter d).inbox = s.inbox := rfl
@[simp] theorem State.setDiagCounter_intReads (d : DiagWord) : (s.setDiagCounter d).intReads = s.intReads := rfl

@[simp] theorem State.emit_fsmState (e : Event) : (s.emit e).fsmState = s.fsmState := rfl
@[simp] theorem State.emit_audioSeq (e : Event) : (s.emit e).audioSeq = s.audioSeq := rfl
@[simp] theorem State.emit_te (e : Event) : (s.emit e).te = s.te := rfl
@[simp] theorem State.emit_voiceBuf (e : Event) : (s.emit e).voiceBuf = s.voiceBuf := rfl
@[simp] theorem State.emit_diagCounter (e : Event) : (s.emit e).diagCounter = s.diagCounter := rfl
@[simp] theorem State.emit_trace (e : Event) : (s.emit e).trace = s.trace ++ [e] := rfl
@[simp] theorem State.emit_inbox (e : Event) : (s.emit e).inbox = s.inbox := rfl
@[simp] theorem State.emit_intReads (e : Event) : (s.emit e).intReads = s.intReads := rfl

@[simp] theorem State.countRead_fsmState : (s.countRead).fsmState = s.fsmState := rfl
@[simp] theorem State.countRead_audioSeq : (s.countRead).audioSeq = s.audioSeq := rfl
@[simp] theorem State.countRead_te : (s.countRead).te = s.te := rfl
@[simp] theorem State.countRead_voiceBuf : (s.countRead).voiceBuf = s.voiceBuf := rfl
@[simp] theorem State.countRead_diagCounter : (s.countRead).diagCounter = s.diagCounter := rfl
@[simp] theorem State.countRead_trace : (s.countRead).trace = s.trace := rfl
@[simp] theorem State.countRead_inbox : (s.countRead).inbox = s.inbox := rfl
@[simp] theorem State.countRead_intReads : (s.countRead).intReads = s.intReads + 1 := rfl

@[simp] theorem State.setInbox_fsmState (q : List Input) : (s.setInbox q).fsmState = s.fsmState := rfl
@[simp] theorem State.setInbox_audioSeq (q : List Input) : (s.setInbox q).audioSeq = s.audioSeq := rfl
@[simp] theorem State.setInbox_te (q : List Input) : (s.setInbox q).te = s.te := rfl
@[simp] theorem State.setInbox_voiceBuf (q : List Input) : (s.setInbox q).voiceBuf = s.voiceBuf := rfl
@[simp] theorem State.setInbox_diagCounter (q : List Input) : (s.setInbox q).diagCounter = s.diagCounter := rfl
@[simp] theorem State.setInbox_trace (q : List Input) : (s.setInbox q).trace = s.trace := rfl
@[simp] theorem State.setInbox_inbox (q : List Input) : (s.setInbox q).inbox = q := rfl
@[simp] theorem State.setInbox_intReads (q : List Input) : (s.setInbox q).intReads = s.intReads := rfl

@[simp] theorem State.reset_fsmState : State.reset.fsmState = .idle := rfl
@[simp] theorem State.reset_audioSeq : State.reset.audioSeq = 0 := rfl
@[simp] theorem State.reset_te : State.reset.te = false := rfl
@[simp] theorem State.reset_voiceBuf : State.reset.voiceBuf = Config.toneRom := rfl
@[simp] theorem State.reset_diagCounter : State.reset.diagCounter = 0#32 := rfl
@[simp] theorem State.reset_trace : State.reset.trace = [] := rfl
@[simp] theorem State.reset_inbox : State.reset.inbox = [] := rfl
@[simp] theorem State.reset_intReads : State.reset.intReads = 0 := rfl

/-- Two states that agree in every field are equal. -/
theorem State.eq_of_fields {s t : State} (h1 : s.fsmState = t.fsmState) (h2 : s.audioSeq = t.audioSeq)
    (h3 : s.te = t.te) (h4 : s.voiceBuf = t.voiceBuf) (h5 : s.diagCounter = t.diagCounter)
    (h6 : s.trace = t.trace) (h7 : s.inbox = t.inbox) (h8 : s.intReads = t.intReads) : s = t := by
  cases s; cases t; simp_all

end Sys2Proof.Machine
end

