-- ==== Sys2Proof/Laws/Ops.lean ====
section
/-! SUPPORT. For each shared operation, once, everything it does: the field lemmas of ASSEMBLE, EMIT and the voice
emission, the WRITE's parts, the ticks of the context branches, and the cases of FSM_STEP. -/

namespace Sys2Proof.Machine

variable (s : State) (p : Params) (n : Fin 6)

/-! ### ASSEMBLE and EMIT -/

@[simp] theorem State.assemble_fsmState : (s.assemble p n).fsmState = s.fsmState := rfl
@[simp] theorem State.assemble_audioSeq : (s.assemble p n).audioSeq = s.audioSeq := rfl
@[simp] theorem State.assemble_te : (s.assemble p n).te = s.te := rfl
@[simp] theorem State.assemble_voiceBuf : (s.assemble p n).voiceBuf = patch p n s.voiceBuf := rfl
@[simp] theorem State.assemble_diagCounter : (s.assemble p n).diagCounter = s.diagCounter := rfl
@[simp] theorem State.assemble_trace : (s.assemble p n).trace = s.trace := rfl
@[simp] theorem State.assemble_inbox : (s.assemble p n).inbox = s.inbox := rfl
@[simp] theorem State.assemble_intReads : (s.assemble p n).intReads = s.intReads := rfl

@[simp] theorem State.emitFrame_fsmState (f : Frame) : (s.emitFrame f).fsmState = s.fsmState := rfl
@[simp] theorem State.emitFrame_audioSeq (f : Frame) : (s.emitFrame f).audioSeq = s.audioSeq := rfl
@[simp] theorem State.emitFrame_te (f : Frame) : (s.emitFrame f).te = s.te := rfl
@[simp] theorem State.emitFrame_voiceBuf (f : Frame) : (s.emitFrame f).voiceBuf = s.voiceBuf := rfl
@[simp] theorem State.emitFrame_diagCounter (f : Frame) : (s.emitFrame f).diagCounter = s.diagCounter := rfl
@[simp] theorem State.emitFrame_trace (f : Frame) :
    (s.emitFrame f).trace = s.trace ++ [.frameOut f Config.frameBytes] := rfl
@[simp] theorem State.emitFrame_inbox (f : Frame) : (s.emitFrame f).inbox = s.inbox := rfl
@[simp] theorem State.emitFrame_intReads (f : Frame) : (s.emitFrame f).intReads = s.intReads := rfl

@[simp] theorem State.sendVoice_fsmState : (s.sendVoice p n).fsmState = s.fsmState := rfl
@[simp] theorem State.sendVoice_audioSeq : (s.sendVoice p n).audioSeq = s.audioSeq := rfl
@[simp] theorem State.sendVoice_te : (s.sendVoice p n).te = s.te := rfl
@[simp] theorem State.sendVoice_voiceBuf : (s.sendVoice p n).voiceBuf = patch p n s.voiceBuf := rfl
@[simp] theorem State.sendVoice_diagCounter : (s.sendVoice p n).diagCounter = s.diagCounter := rfl
@[simp] theorem State.sendVoice_trace :
    (s.sendVoice p n).trace = s.trace ++ [.frameOut (patch p n s.voiceBuf) Config.frameBytes] := rfl
@[simp] theorem State.sendVoice_inbox : (s.sendVoice p n).inbox = s.inbox := rfl
@[simp] theorem State.sendVoice_intReads : (s.sendVoice p n).intReads = s.intReads := rfl

/-- A buffer that holds the template wherever ASSEMBLE never writes: the part of R42 that speaks of bytes. -/
def FromTemplate (p : Params) (b : Frame) : Prop :=
  (∀ i : Fin Config.frameBytes, i.val < 14 ∨ 20 < i.val → b[i] = romRead p.toneRom i) ∧
    b[14] &&& ~~~p.m14 = romRead p.toneRom 14 &&& ~~~p.m14 ∧
    b[20] &&& ~~~p.m20 = romRead p.toneRom 20 &&& ~~~p.m20

theorem fromTemplate_toneRom : FromTemplate p p.toneRom := by
  refine ⟨fun i _ => rfl, rfl, rfl⟩

/-- ASSEMBLE keeps the bits it never writes (40_assembler.md R121, R122). -/
theorem patch_fromTemplate {b : Frame} (h : FromTemplate p b) : FromTemplate p (patch p n b) := by
  obtain ⟨h1, h2, h3⟩ := h
  refine ⟨fun i hi => ?_, ?_, ?_⟩
  · rw [← h1 i hi]
    exact patch_outside p n b i.val i.isLt hi
  · rw [patch_14, mergeMasked_keep, h2]
  · rw [patch_20, mergeMasked_keep, h3]

/-! ### The command's parts -/

/-- Arming on this hardware (43_command.md R193), `REARM_POLICY` being CONTINUE. -/
theorem State.arm_hw (mode : Mode) :
    s.arm hw mode = if s.te = true ∧ s.fsmState = .idle ∧ mode = .dmr1k then s.setFsmState .vh else s := by
  simp [State.arm]

/-- What a WRITE leaves (43_command.md R192 to R195). -/
theorem writeCommand_hw (mode : Mode) (d0 : Byte) :
    writeCommand hw mode d0 s =
      { s with
        te := decide (d0 = 0x01#8)
        fsmState := if d0 = 0x01#8 ∧ s.fsmState = .idle ∧ mode = .dmr1k then .vh else s.fsmState
        trace := s.trace ++ (if d0 = 0x01#8 then [.rfIfConf hw.rfDmrTag true] else []) ++ [.status statusOk] } := by
  unfold writeCommand
  rw [State.arm_hw]
  by_cases hd : d0 = 0x01#8
  · by_cases hc : s.fsmState = .idle ∧ mode = .dmr1k
    · simp [hd, hc, State.signalRf, State.setTe, State.emit, State.setFsmState]
    · simp [hd, hc, State.signalRf, State.setTe, State.emit]
  · simp [hd, State.signalRf, State.setTe, State.emit]

/-! ### The ticks of the context branches -/

/-- What a FULL_CAL tick leaves (42_dispatcher.md R172). -/
theorem fullCalTick_eq :
    fullCalTick s = { s with trace := s.trace ++ (.calCarrier s.te :: cond s.te [.txProcess] []) } := by
  cases h : s.te <;> simp [fullCalTick, h, State.emit]

/-- Below 2^32 - 1 the counter goes up by one (42_dispatcher.md R173). -/
theorem diagIncrement_of_lt {c : DiagWord} (h : c.toNat < 2 ^ 32 - 1) : diagIncrement p c = c + 1#32 := by
  have hne : c ≠ 0xFFFFFFFF#32 := by rintro rfl; simp at h
  simp [diagIncrement, hne]

/-- The two cases of an INT_DIAG tick (42_dispatcher.md R173). -/
theorem intDiagTick_cases :
    ((diagIncrement p s.diagCounter).toNat < p.diagThreshold ∧
        intDiagTick p s = { s with diagCounter := diagIncrement p s.diagCounter }) ∨
      (p.diagThreshold ≤ (diagIncrement p s.diagCounter).toNat ∧
        intDiagTick p s =
          { s with
            diagCounter := 0#32
            intReads := s.intReads + 1
            trace := s.trace ++ [.readIntCounters, diagLine p.diagShiftSel (p.intCounts s.intReads)] }) := by
  by_cases h : p.diagThreshold ≤ (diagIncrement p s.diagCounter).toNat
  · refine .inr ⟨h, ?_⟩
    simp only [intDiagTick, if_pos h]
    simp [State.emit, State.setDiagCounter, State.countRead]
  · refine .inl ⟨by omega, ?_⟩
    simp only [intDiagTick, if_neg h, State.setDiagCounter]

/-! ### FSM_STEP -/

/-- The voice row below position 5 (41_sequencer.md R145). -/
theorem emitVoiceRow_of_lt (h : s.audioSeq.val < 5) :
    emitVoiceRow p s = .next ((s.sendVoice p s.audioSeq).setAudioSeq ⟨s.audioSeq.val + 1, by omega⟩) := by
  simp only [emitVoiceRow, nextPosition_of_lt h]

/-- The five things a DMR_1K tick can do (41_sequencer.md R141 to R148), with what selects each. -/
theorem fsmStep_cases (sp : Space) :
    (spaceOk p sp = false ∧ fsmStep p sp s = .next s) ∨
      (spaceOk p sp = true ∧ s.fsmState = .idle ∧ fsmStep p sp s = .next s) ∨
      (spaceOk p sp = true ∧ s.fsmState = .vh ∧ fsmStep p sp s = .next (emitVhRow p s)) ∨
      (spaceOk p sp = true ∧ s.fsmState = .voice ∧ ∃ h : s.audioSeq.val < 5, fsmStep p sp s =
        .next ((s.sendVoice p s.audioSeq).setAudioSeq ⟨s.audioSeq.val + 1, by omega⟩)) ∨
      (spaceOk p sp = true ∧ s.fsmState = .voice ∧ s.audioSeq = 5 ∧ s.te = true ∧
        fsmStep p sp s = .next (wrapContRow p s)) ∨
      (spaceOk p sp = true ∧ s.fsmState = .voice ∧ s.audioSeq = 5 ∧ s.te = false ∧
        fsmStep p sp s = .next (wrapEndRow p s)) ∨
      (spaceOk p sp = true ∧ s.fsmState = .vt ∧ fsmStep p sp s = .next (emitVtRow p s)) := by
  have hkey : (s.key p sp).row = selectRow s.fsmState (spaceOk p sp) s.seq5 s.te := by
    unfold State.key
    generalize s.fsmState = f, spaceOk p sp = a, s.seq5 = q, s.te = t
    cases f <;> cases a <;> cases q <;> cases t <;> rfl
  have hstep : ∀ f a q t, s.fsmState = f → spaceOk p sp = a → s.seq5 = q → s.te = t →
      fsmStep p sp s = performRow p (selectRow f a q t) s := by
    rintro _ _ _ _ rfl rfl rfl rfl
    rw [fsmStep, hkey]
  by_cases ho : spaceOk p sp = true
  · cases hf : s.fsmState
    · exact .inr (.inl ⟨ho, rfl, hstep _ _ _ _ hf ho rfl rfl⟩)
    · exact .inr (.inr (.inl ⟨ho, rfl, hstep _ _ _ _ hf ho rfl rfl⟩))
    · by_cases h5 : s.audioSeq = 5
      · have hq : s.seq5 = true := by simp [State.seq5, h5]
        cases ht : s.te
        · exact .inr (.inr (.inr (.inr (.inr (.inl ⟨ho, rfl, h5, rfl, hstep _ _ _ _ hf ho hq ht⟩)))))
        · exact .inr (.inr (.inr (.inr (.inl ⟨ho, rfl, h5, rfl, hstep _ _ _ _ hf ho hq ht⟩))))
      · have hlt : s.audioSeq.val < 5 := by omega
        have hq : s.seq5 = false := by simp [State.seq5, h5]
        refine .inr (.inr (.inr (.inl ⟨ho, rfl, hlt, ?_⟩)))
        rw [hstep _ _ _ _ hf ho hq rfl]
        exact emitVoiceRow_of_lt s p hlt
    · exact .inr (.inr (.inr (.inr (.inr (.inr ⟨ho, rfl, hstep _ _ _ _ hf ho rfl rfl⟩)))))
  · rw [Bool.not_eq_true] at ho
    refine .inl ⟨ho, ?_⟩
    rw [hstep _ _ _ _ rfl ho rfl rfl]
    cases s.fsmState <;> rfl

/-- A DMR_1K tick always completes (70_reset_and_hazards.md R249: "every tick completes"). -/
theorem fsmStep_next (sp : Space) : ∃ t, fsmStep p sp s = .next t := by
  rcases fsmStep_cases s p sp with ⟨_, h⟩ | ⟨_, _, h⟩ | ⟨_, _, h⟩ | ⟨_, _, _, h⟩ | ⟨_, _, _, _, h⟩ |
    ⟨_, _, _, _, h⟩ | ⟨_, _, h⟩ <;> exact ⟨_, h⟩

end Sys2Proof.Machine
end

