-- ==== Sys2Proof/Laws/PerInstr.lean ====
section
/-! SUPPORT. The family RoundTrip: each constructor's own lemma that decoding its encoding gives it back, with
every operand at every value its encoding admits. -/

namespace Sys2Proof.Laws

/-- Decoding the encoding of a well-formed instruction gives it back. -/
def RoundTrip.Statement (i : Instr) : Prop := i.wellFormed = true → decode (encode i) = .ok i

theorem RoundTrip.write (mode : Mode) (d0 : Byte) : RoundTrip.Statement (.write mode d0) := by
  intro _
  simp [encode, decode, commandRow]

theorem RoundTrip.writeBadlen (mode : Mode) (len d0 : Byte) :
    RoundTrip.Statement (.writeBadlen mode len d0) := by
  intro h
  have hl : len ≠ 0x01#8 := by simpa [Instr.wellFormed] using h
  simp [encode, decode, commandRow, hl]

theorem RoundTrip.tickOther (space : Space) : RoundTrip.Statement (.tickOther space) := by
  intro _
  simp [encode, decode, tickRow]

theorem RoundTrip.tickFullcal (space : Space) : RoundTrip.Statement (.tickFullcal space) := by
  intro _
  simp [encode, decode, tickRow]

theorem RoundTrip.tickDmr1k (space : Space) : RoundTrip.Statement (.tickDmr1k space) := by
  intro _
  simp [encode, decode, tickRow]

theorem RoundTrip.tickIntdiag (space : Space) : RoundTrip.Statement (.tickIntdiag space) := by
  intro _
  simp [encode, decode, tickRow]

theorem RoundTrip.fsmStall (st : FsmState) (seq5 te : Bool) :
    RoundTrip.Statement (.fsmStall st seq5 te) := by
  intro _
  rw [encode, decode_form]
  cases st <;> rfl

theorem RoundTrip.fsmIdle (seq5 te : Bool) : RoundTrip.Statement (.fsmIdle seq5 te) := by
  intro _
  rw [encode, decode_form]
  rfl

theorem RoundTrip.fsmEmitVh (seq5 te : Bool) : RoundTrip.Statement (.fsmEmitVh seq5 te) := by
  intro _
  rw [encode, decode_form]
  rfl

theorem RoundTrip.fsmEmitVoice (te : Bool) : RoundTrip.Statement (.fsmEmitVoice te) := by
  intro _
  rw [encode, decode_form]
  rfl

theorem RoundTrip.fsmVoiceWrapCont : RoundTrip.Statement .fsmVoiceWrapCont := by
  intro _
  rw [encode, decode_form]
  rfl

theorem RoundTrip.fsmVoiceWrapEnd : RoundTrip.Statement .fsmVoiceWrapEnd := by
  intro _
  rw [encode, decode_form]
  rfl

theorem RoundTrip.fsmEmitVt (seq5 te : Bool) : RoundTrip.Statement (.fsmEmitVt seq5 te) := by
  intro _
  rw [encode, decode_form]
  rfl

end Sys2Proof.Laws
end

