-- ==== Sys2Proof/Laws/Step.lean ====
section
/-! SUPPORT. The step's equations and what each kind of input does, stated once: a proof about a step cites the
lemma of its input and never unfolds `step` or `exec`. -/

namespace Sys2Proof.Machine

variable {s : State} {rest : List Input}

theorem step_nil (h : s.inbox = []) : step s = .next s := by simp [step, h]

theorem step_reset (h : s.inbox = .reset :: rest) : step s = .next (s.setInbox rest).applyReset := by
  simp [step, h]

theorem step_txn {w : XWord} (h : s.inbox = .txn w :: rest) :
    step s = exec (decodeTxn w) (s.setInbox rest) := by simp [step, h]

/-- A command word performed (43_command.md R190). -/
theorem step_command {m : Mode} {len d0 : Byte} (h : s.inbox = .txn (XWord.command m len d0) :: rest) :
    step s =
      if len = 0x01#8 then .next (writeCommand hw m d0 (s.setInbox rest))
      else .next ((s.setInbox rest).emit (.status statusBadlen)) := by
  rw [step_txn h, decodeTxn_command]
  by_cases hl : len = 0x01#8
  · rw [commandRow, if_pos hl, if_pos hl, exec, execWrite]
  · rw [commandRow, if_neg hl, if_neg hl, exec, execWriteBadlen]

/-- A tick word performed (42_dispatcher.md R170). -/
theorem step_tick {m : Mode} {sp : Space} (h : s.inbox = .txn (XWord.tick m sp) :: rest) :
    step s = exec (tickRow m sp) (s.setInbox rest) := by
  rw [step_txn h, decodeTxn_tick]

theorem step_tickOther {sp : Space} (h : s.inbox = .txn (XWord.tick .other sp) :: rest) :
    step s = .next (s.setInbox rest) := step_tick h

theorem step_tickFullcal {sp : Space} (h : s.inbox = .txn (XWord.tick .fullCal sp) :: rest) :
    step s = .next (fullCalTick (s.setInbox rest)) := step_tick h

theorem step_tickDmr1k {sp : Space} (h : s.inbox = .txn (XWord.tick .dmr1k sp) :: rest) :
    step s = fsmStep hw sp (s.setInbox rest) := step_tick h

theorem step_tickIntdiag {sp : Space} (h : s.inbox = .txn (XWord.tick .intDiag sp) :: rest) :
    step s = .next (intDiagTick hw (s.setInbox rest)) := step_tick h

/-- Every pending input is nothing, a reset, a command word or a tick word. -/
theorem inbox_cases (s : State) :
    s.inbox = [] ∨ (∃ rest, s.inbox = .reset :: rest) ∨
      (∃ m len d0 rest, s.inbox = .txn (XWord.command m len d0) :: rest) ∨
      ∃ m sp rest, s.inbox = .txn (XWord.tick m sp) :: rest := by
  rcases hq : s.inbox with _ | ⟨i, rest⟩
  · exact .inl rfl
  · rcases i with w | _
    · rcases XWord.command_or_tick w with ⟨m, len, d0, rfl⟩ | ⟨m, sp, rfl⟩
      · exact .inr (.inr (.inl ⟨m, len, d0, rest, rfl⟩))
      · exact .inr (.inr (.inr ⟨m, sp, rest, rfl⟩))
    · exact .inr (.inl ⟨rest, rfl⟩)

@[simp] theorem State.applyReset_fsmState (s : State) : s.applyReset.fsmState = .idle := rfl
@[simp] theorem State.applyReset_audioSeq (s : State) : s.applyReset.audioSeq = 0 := rfl
@[simp] theorem State.applyReset_te (s : State) : s.applyReset.te = false := rfl
@[simp] theorem State.applyReset_voiceBuf (s : State) : s.applyReset.voiceBuf = Config.toneRom := rfl
@[simp] theorem State.applyReset_diagCounter (s : State) : s.applyReset.diagCounter = 0#32 := rfl
@[simp] theorem State.applyReset_trace (s : State) : s.applyReset.trace = s.trace := rfl
@[simp] theorem State.applyReset_inbox (s : State) : s.applyReset.inbox = s.inbox := rfl
@[simp] theorem State.applyReset_intReads (s : State) : s.applyReset.intReads = s.intReads := rfl

@[simp] theorem framesOf_append (a b : List Event) : framesOf (a ++ b) = framesOf a ++ framesOf b := by
  simp [framesOf]

@[simp] theorem framesOf_nil : framesOf [] = [] := rfl

@[simp] theorem framesOf_frameOut (f : Frame) (n : Nat) : framesOf [.frameOut f n] = [f] := rfl

/-- One step and then the rest of a run. -/
theorem run_succ (M : Host.Core) (k : Nat) (s t : M.State) (h : M.step s = .next t) :
    M.run (k + 1) s = M.run k t := by
  simp [Host.Core.run, h]

/-! ### Everything a step can do -/

/-- The step's cases, guards included: nothing pending, a reset, the two commands, the three ticks of the other modes,
and the seven micro-operations of a DMR_1K tick (00_scope.md R3, 42_dispatcher.md R170, 41_sequencer.md R141). -/
inductive StepKind (s t : State) : Prop
  | nothing (h : s.inbox = [])
      (e : t = s)
  | reset (rest : List Input) (h : s.inbox = .reset :: rest)
      (e : t = (s.setInbox rest).applyReset)
  | write (m : Mode) (d : Byte) (rest : List Input) (h : s.inbox = .txn (XWord.command m 1#8 d) :: rest)
      (e : t = writeCommand hw m d (s.setInbox rest))
  | badlen (m : Mode) (l d : Byte) (rest : List Input) (h : s.inbox = .txn (XWord.command m l d) :: rest) (hl : l ≠ 1#8)
      (e : t = (s.setInbox rest).emit (.status statusBadlen))
  | other (sp : Space) (rest : List Input) (h : s.inbox = .txn (XWord.tick .other sp) :: rest)
      (e : t = s.setInbox rest)
  | fullCal (sp : Space) (rest : List Input) (h : s.inbox = .txn (XWord.tick .fullCal sp) :: rest)
      (e : t = fullCalTick (s.setInbox rest))
  | intDiag (sp : Space) (rest : List Input) (h : s.inbox = .txn (XWord.tick .intDiag sp) :: rest)
      (e : t = intDiagTick hw (s.setInbox rest))
  | stall (sp : Space) (rest : List Input) (h : s.inbox = .txn (XWord.tick .dmr1k sp) :: rest)
      (ho : spaceOk hw sp = false)
      (e : t = s.setInbox rest)
  | idle (sp : Space) (rest : List Input) (h : s.inbox = .txn (XWord.tick .dmr1k sp) :: rest)
      (ho : spaceOk hw sp = true) (hf : s.fsmState = .idle)
      (e : t = s.setInbox rest)
  | vh (sp : Space) (rest : List Input) (h : s.inbox = .txn (XWord.tick .dmr1k sp) :: rest)
      (ho : spaceOk hw sp = true) (hf : s.fsmState = .vh)
      (e : t = emitVhRow hw (s.setInbox rest))
  | voice (sp : Space) (rest : List Input) (h : s.inbox = .txn (XWord.tick .dmr1k sp) :: rest)
      (ho : spaceOk hw sp = true) (hf : s.fsmState = .voice) (n : Fin 6)
      (h5 : s.audioSeq.val < 5) (hn : n.val = s.audioSeq.val + 1)
      (e : t = ((s.setInbox rest).sendVoice hw s.audioSeq).setAudioSeq n)
  | wrapCont (sp : Space) (rest : List Input) (h : s.inbox = .txn (XWord.tick .dmr1k sp) :: rest)
      (ho : spaceOk hw sp = true) (hf : s.fsmState = .voice) (h5 : s.audioSeq = 5) (ht : s.te = true)
      (e : t = wrapContRow hw (s.setInbox rest))
  | wrapEnd (sp : Space) (rest : List Input) (h : s.inbox = .txn (XWord.tick .dmr1k sp) :: rest)
      (ho : spaceOk hw sp = true) (hf : s.fsmState = .voice) (h5 : s.audioSeq = 5) (ht : s.te = false)
      (e : t = wrapEndRow hw (s.setInbox rest))
  | vt (sp : Space) (rest : List Input) (h : s.inbox = .txn (XWord.tick .dmr1k sp) :: rest)
      (ho : spaceOk hw sp = true) (hf : s.fsmState = .vt)
      (e : t = emitVtRow hw (s.setInbox rest))

/-- Whatever a step answers is one of these. -/
theorem step_inv {s t : State} (hs : step s = .next t) : StepKind s t := by
  rcases inbox_cases s with h | ⟨r, h⟩ | ⟨m, l, d, r, h⟩ | ⟨m, sp, r, h⟩
  · rw [step_nil h] at hs; cases hs; exact .nothing h rfl
  · rw [step_reset h] at hs; cases hs; exact .reset r h rfl
  · rw [step_command h] at hs
    by_cases hl : l = 1#8
    · rw [if_pos hl] at hs; cases hs; subst hl; exact .write m d r h rfl
    · rw [if_neg hl] at hs; cases hs; exact .badlen m l d r h hl rfl
  · cases m
    · rw [step_tickOther h] at hs; cases hs; exact .other sp r h rfl
    · rw [step_tickFullcal h] at hs; cases hs; exact .fullCal sp r h rfl
    · rw [step_tickDmr1k h] at hs
      rcases fsmStep_cases (s.setInbox r) hw sp with ⟨h0, e⟩ | ⟨h0, hf, e⟩ | ⟨h0, hf, e⟩ | ⟨h0, hf, hlt, e⟩ | ⟨h0, hf, h5, ht, e⟩ |
        ⟨h0, hf, h5, ht, e⟩ | ⟨h0, hf, e⟩ <;> rw [e] at hs <;> cases hs
      · exact .stall sp r h h0 rfl
      · exact .idle sp r h h0 hf rfl
      · exact .vh sp r h h0 hf rfl
      · exact .voice sp r h h0 hf _ hlt rfl rfl
      · exact .wrapCont sp r h h0 hf h5 ht rfl
      · exact .wrapEnd sp r h h0 hf h5 ht rfl
      · exact .vt sp r h h0 hf rfl
    · rw [step_tickIntdiag h] at hs; cases hs; exact .intDiag sp r h rfl

end Sys2Proof.Machine
end

