-- ==== Sys2Proof/Tests/Slice0.lean ====
section
/-! SUPPORT. The model's own tests. Expected values are the spec's: the encodings of 30_encoding.md and the vectors of
95_test_vectors.md (named in each comment), on the spec's fixture FX where bytes matter. Then the witnesses: for every
statement with hypotheses, a concrete state and operands that meet them all. -/

namespace Sys2Proof.Tests

open Sys2Proof Sys2Proof.Machine

/-! ### Well-formedness: the one check refuses its ill-formed term (R96, R97) -/

theorem test_wellFormed_refuses_badlen_of_length_one :
    (Instr.writeBadlen .dmr1k 0x01#8 0x00#8).wellFormed = false := by decide

/-! ### Decoding: words written out bit by bit from the rows of 30_encoding.md R96 -/

theorem test_decode_write :
    decodeTableWord 24 0b0_10_00000001_00000001 = some (.write .dmr1k 0x01#8) := by decide

theorem test_decode_writeBadlen :
    decodeTableWord 24 0b0_01_11111111_00000001 = some (.writeBadlen .fullCal 0xFF#8 0x01#8) := by decide

theorem test_decode_tickOther :
    decodeTableWord 24 0b1_00_1111111111111111 = some (.tickOther 0xFFFF#16) := by decide

theorem test_decode_tickFullcal :
    decodeTableWord 24 0b1_01_0000000000001001 = some (.tickFullcal 9#16) := by decide

theorem test_decode_tickDmr1k :
    decodeTableWord 24 0b1_10_1000000000000001 = some (.tickDmr1k 0x8001#16) := by decide

theorem test_decode_tickIntdiag :
    decodeTableWord 24 0b1_11_1010101111001101 = some (.tickIntdiag 0xABCD#16) := by decide

theorem test_decode_fsmStall :
    decodeTableWord 8 0b10_01_0_0_1 = some (.fsmStall .vh false true) := by decide

theorem test_decode_fsmIdle : decodeTableWord 8 0b10_00_1_1_0 = some (.fsmIdle true false) := by decide

theorem test_decode_fsmEmitVh : decodeTableWord 8 0b10_01_1_0_1 = some (.fsmEmitVh false true) := by decide

theorem test_decode_fsmEmitVoice : decodeTableWord 8 0b10_10_1_0_1 = some (.fsmEmitVoice true) := by decide

theorem test_decode_fsmVoiceWrapCont : decodeTableWord 8 0b10_10_1_1_1 = some .fsmVoiceWrapCont := by decide

theorem test_decode_fsmVoiceWrapEnd : decodeTableWord 8 0b10_10_1_1_0 = some .fsmVoiceWrapEnd := by decide

theorem test_decode_fsmEmitVt : decodeTableWord 8 0b10_11_1_0_1 = some (.fsmEmitVt false true) := by decide

/-- R97: a key of another mode is never formed, and bits beyond a format are no code. -/
theorem test_decode_rejects :
    decodeTableWord 8 0b11_10_1_1_1 = none ∧ decodeTableWord 8 0x80 = none ∧ decodeTableWord 24 0x80000 = none := by
  decide

/-- 95_test_vectors.md X7 and X8: the length field decides, not `d0`. -/
theorem test_encode_command :
    encode (.writeBadlen .intDiag 0xFF#8 0xFF#8) = .x 0x3FFFF#19 ∧
      encode (.write .other 0xFF#8) = .x 0x001FF#19 := by decide

/-! ### Scripts: the words of 95_test_vectors.md L1-6 and 30_encoding.md R101 -/

theorem test_script_words :
    scriptWords [.mode .dmr1k, .arm, .ticks 2 1#16, .disarm, .tick 0#16, .mode .other, .writeN 0x02#8 (some 0x01#8)] =
      [0x20101#19, 0x60001#19, 0x60001#19, 0x20100#19, 0x60000#19, 0x00201#19] := by decide

/-! ### The fixture FX of 95_test_vectors.md section 2 -/

/-- FX, with the parameters of that file's opening notes. It is the spec's fixture, not the hardware's contents. -/
def fx : Params where
  vhRom := Vector.ofFn fun i => BitVec.ofNat 8 (0xA0 + i.val)
  vtRom := Vector.ofFn fun i => BitVec.ofNat 8 (0x30 + i.val)
  toneRom := Vector.ofFn fun i => BitVec.ofNat 8 (0x5A + 0x37 * i.val)
  embLut := #v[#v[0x1A, 0x10, 0x20, 0x30, 0x40, 0x50, 0x8F], #v[0x2B, 0x11, 0x21, 0x31, 0x41, 0x51, 0x9E],
    #v[0x3C, 0x12, 0x22, 0x32, 0x42, 0x52, 0xAD], #v[0x4D, 0x13, 0x23, 0x33, 0x43, 0x53, 0xBC],
    #v[0x5E, 0x14, 0x24, 0x34, 0x44, 0x54, 0xCB], #v[0x6F, 0x15, 0x25, 0x35, 0x45, 0x55, 0xDA]]
  m14 := 0xF0#8
  m20 := 0xF0#8
  spaceMin := 1#16
  modeMap := fun _ => .dmr1k
  rfDmrTag := 7
  diagThreshold := 3
  diagOverflow := 0#32
  diagShiftSel := .second
  rearmPolicy := .continueRun
  intCounts := fun _ => (10#32, 7#32)

/-- `buf[14..20]`. -/
def region (b : Frame) : List Byte := [b[14], b[15], b[16], b[17], b[18], b[19], b[20]]

/-- The state `(f, n, te)` of 95_test_vectors.md with `voice_buf` = `TONE_FX`. -/
def fxState (f : FsmState) (n : Fin 6) (te : Bool) (diag : DiagWord) : State where
  fsmState := f
  audioSeq := n
  te := te
  voiceBuf := fx.toneRom
  diagCounter := diag
  trace := []
  inbox := []
  intReads := 0

/-- `(fsm_state, audio_seq, te)` after an outcome. -/
def triple (o : Host.Outcome State Fault Refusal) : Option (FsmState × Fin 6 × Bool) :=
  (nextOf o).map fun s => (s.fsmState, s.audioSeq, s.te)

/-- The template's bytes 14..20 as listed. -/
theorem test_fixture_region : region fx.toneRom = [0x5C, 0x93, 0xCA, 0x01, 0x38, 0x6F, 0xA6] := by decide

/-! ### The assembler (95_test_vectors.md section 4) -/

/-- A1 and A6. -/
theorem test_assemble_zero_and_five :
    region (patch fx 0 fx.toneRom) = [0x1C, 0x10, 0x20, 0x30, 0x40, 0x50, 0x86] ∧
      region (patch fx 5 fx.toneRom) = [0x6C, 0x15, 0x25, 0x35, 0x45, 0x55, 0xD6] := by decide

/-- A7: the result depends on the last position only. -/
theorem test_assemble_forgets_earlier_positions :
    patch fx 5 (patch fx 0 (patch fx 3 fx.toneRom)) = voiceFrame fx 5 := by decide

/-- A10: the alternative `M14` = 0x0F. -/
theorem test_assemble_with_low_nibble_mask :
    (patch { fx with m14 := 0x0F#8 } 3 fx.toneRom)[14] = 0x5D#8 := by decide

/-! ### The state machine (section 5) -/

/-- S4. -/
theorem test_stall : nextOf (fsmStep fx 0#16 (fxState .voice 3 true 0)) = some (fxState .voice 3 true 0) := by decide

/-- I2: no tick arms. -/
theorem test_idle : nextOf (fsmStep fx 0xFFFF#16 (fxState .idle 0 true 0)) = some (fxState .idle 0 true 0) := by decide

/-- H2: a disarm before the header does not cancel it. -/
theorem test_emitVh :
    (nextOf (fsmStep fx 1#16 (fxState .vh 0 false 0))).map (fun s => (s.fsmState, framesOf s.trace)) =
      some (.voice, [fx.vhRom]) := by decide

/-- V1. -/
theorem test_emitVoice :
    (nextOf (fsmStep fx 1#16 (fxState .voice 0 true 0))).map
        (fun s => (s.audioSeq, region s.voiceBuf, framesOf s.trace == [s.voiceBuf])) =
      some (1, [0x1C, 0x10, 0x20, 0x30, 0x40, 0x50, 0x86], true) := by decide

/-- V5: the last position before the wrap. -/
theorem test_emitVoice_four : triple (fsmStep fx 1#16 (fxState .voice 4 true 0)) = some (.voice, 5, true) := by decide

/-- C1. -/
theorem test_wrapCont :
    (nextOf (fsmStep fx 1#16 (fxState .voice 5 true 0))).map (fun s => (s.fsmState, s.audioSeq, region s.voiceBuf)) =
      some (.voice, 0, [0x6C, 0x15, 0x25, 0x35, 0x45, 0x55, 0xD6]) := by decide

/-- E1. -/
theorem test_wrapEnd : triple (fsmStep fx 1#16 (fxState .voice 5 false 0)) = some (.vt, 0, false) := by decide

/-- T2: a re-arm in VT does not prevent the terminator. -/
theorem test_emitVt :
    (nextOf (fsmStep fx 1#16 (fxState .vt 0 true 0))).map (fun s => (s.fsmState, s.te, framesOf s.trace)) =
      some (.idle, true, [fx.vtRom]) := by decide

/-! ### Commands (section 6) -/

/-- W1. -/
theorem test_write_arms :
    writeCommand fx .dmr1k 0x01#8 (fxState .idle 0 false 0) =
      { fxState .vh 0 true 0 with trace := [.rfIfConf 7 true, .status 0#8] } := by decide

/-- W7: only 0x01 enables. -/
theorem test_write_of_two_disables :
    writeCommand fx .dmr1k 0x02#8 (fxState .idle 0 true 0) =
      { fxState .idle 0 false 0 with trace := [.status 0#8] } := by decide

/-- W13, W14. -/
theorem test_writeBadlen :
    (nextOf (exec (.writeBadlen .dmr1k 0x02#8 0x00#8) (fxState .voice 2 true 0))).map (fun s => (s.te, s.trace)) =
      some (true, [.status 4#8]) := by decide

/-- U5 of 93_implementation_defined.md: the alternative policy, which is not this hardware's. -/
theorem test_restart_policy :
    (fun s : State => (s.fsmState, s.audioSeq))
        (writeCommand { fx with rearmPolicy := .restartHeader } .other 0x01#8 (fxState .voice 3 false 0)) =
      (.vh, 0) := by decide

/-! ### Ticks of the other modes (section 7) -/

/-- D1. -/
theorem test_fullcal_enabled :
    (fullCalTick (fxState .idle 0 true 0)).trace = [.calCarrier true, .txProcess] := by decide

/-- D2. -/
theorem test_fullcal_disabled : (fullCalTick (fxState .idle 0 false 0)).trace = [.calCarrier false] := by decide

/-- D6 and D7. -/
theorem test_intdiag :
    intDiagTick fx (fxState .idle 0 false 1#32) = fxState .idle 0 false 2#32 ∧
      (fun s : State => (s.diagCounter, s.trace)) (intDiagTick fx (fxState .idle 0 false 2#32)) =
        (0#32, [.readIntCounters, .diagLog 10#32 3#32]) := by decide

/-- D8: the first count halved. -/
theorem test_intdiag_first_count :
    (intDiagTick { fx with diagShiftSel := .first } (fxState .idle 0 false 2#32)).trace =
      [.readIntCounters, .diagLog 5#32 7#32] := by decide

/-- D4. -/
theorem test_tickOther : nextOf (exec (.tickOther 5#16) (fxState .vh 0 true 0)) = some (fxState .vh 0 true 0) := by
  decide

/-! ### The step as the first instruction after reset -/

/-- The arming word, and the header's key through the tick that forms it. -/
theorem test_step_runs_placed_words :
    triple (step (State.reset.withFetchWord 24 0x20101)) = some (.vh, 0, true) ∧
      triple (step (State.reset.withFetchWord 8 0x4D)) = some (.voice, 0, true) ∧
      triple (step (State.reset.withFetchWord 8 0x56)) = some (.vt, 0, false) := by decide

/-- The same-cycle offer: the command's arming takes effect at that very tick (60_exceptions.md R216, D18). -/
theorem test_command_goes_first :
    triple (Host.Core.run core 2 (State.reset.offerTogether 0x20101#19 0x60001#19)) = some (.voice, 0, true) := by
  decide

/-! ### Witnesses: the hypotheses of the statements are met -/

/-- A state of this hardware with the reset buffer. -/
def hwState (f : FsmState) (n : Fin 6) (te : Bool) (q : List Input) : State :=
  { State.reset with fsmState := f, audioSeq := n, te := te, inbox := q }

theorem hwState_inv (f : FsmState) (n : Fin 6) (te : Bool) (q : List Input) (h : f ≠ .voice → n = 0) :
    (hwState f n te q).Inv hw :=
  ⟨h, (fromTemplate_toneRom hw).1, (fromTemplate_toneRom hw).2.1, (fromTemplate_toneRom hw).2.2,
    hw_diagThreshold_pos⟩

/-- A next state read off an evaluated field of an outcome. -/
theorem exists_next {α : Type} {o : Host.Outcome State Fault Refusal} {g : State → α} {v : α}
    (h : (nextOf o).map g = some v) : ∃ t, o = .next t ∧ g t = v := by
  cases o with
  | next t => exact ⟨t, rfl, by simpa [nextOf] using h⟩
  | fault r => cases h
  | refused r => cases h

/-- An armed tick word with space, a stall, and words of the other modes. -/
def drive : Input := .txn 0x60001#19
def stall : Input := .txn 0x60000#19
def armWord : Input := .txn 0x20101#19
def disarmWord : Input := .txn 0x20100#19

/-- EmitVoiceSendsAndAdvances, at both ends of 0..4; EmitVoiceRefusesPastFour at 5. -/
theorem witness_emitVoice_positions :
    (hwState .voice 0 true []).audioSeq.val ≤ 4 ∧ (hwState .voice 4 true []).audioSeq.val ≤ 4 ∧
      refusalOf (exec (.fsmEmitVoice true) (hwState .voice 5 true [])) = some .voicePositionPastFour := by decide

/-- OutsideThePatchRegionIsKept: offsets at both ends of each side. -/
theorem witness_outside_offsets :
    (∀ i ∈ ([0, 13, 21, 33] : List (Fin Config.frameBytes)), i.val < 14 ∨ 20 < i.val) ∧
      ∀ i ∈ ([14, 20] : List (Fin Config.frameBytes)), ¬ (i.val < 14 ∨ 20 < i.val) := by decide

/-- MaskedOutEntryBitsAreNeverRead: two tables that differ in the low nibbles of bytes 0 and 6 alone. -/
theorem witness_masked_out_bits :
    ∃ q : Params, fx.m14 = q.m14 ∧ fx.m20 = q.m20 ∧
      embRead fx.embLut 0 0 &&& fx.m14 = embRead q.embLut 0 0 &&& fx.m14 ∧
      (∀ j : Fin 7, 1 ≤ j.val → j.val ≤ 5 → embRead fx.embLut 0 j = embRead q.embLut 0 j) ∧
      embRead fx.embLut 0 6 &&& fx.m20 = embRead q.embLut 0 6 &&& fx.m20 ∧
      embRead fx.embLut 0 0 ≠ embRead q.embLut 0 0 ∧ embRead fx.embLut 0 6 ≠ embRead q.embLut 0 6 :=
  ⟨{ fx with embLut := fx.embLut.set 0 #v[0x15, 0x10, 0x20, 0x30, 0x40, 0x50, 0x80] }, by decide⟩

/-- DecodeAndEncodeAgree and DecodingFollowsTheOpcodeMap: both kinds of code and both kinds of key. -/
theorem witness_codes :
    (Instr.writeBadlen .other 0x00#8 0x00#8).wellFormed = true ∧
      decode (.x 0x00000#19) = .ok (.writeBadlen .other 0x00#8 0x00#8) ∧
      decode (.k 0x57#7) = .ok .fsmVoiceWrapCont ∧ Key.mode 0x57#7 = 0b10#2 ∧ Key.mode 0x77#7 ≠ 0b10#2 :=
  ⟨rfl, rfl, rfl, rfl, by decide⟩

/-- StepPerformsTheDecodedWord, ResetWritesEveryRegister, StepWithNothingPendingKeepsState. -/
theorem witness_inboxes :
    (hwState .voice 2 true [drive, .reset]).inbox = .txn 0x60001#19 :: [.reset] ∧
      (hwState .voice 2 true [.reset, drive]).inbox = .reset :: [drive] ∧ State.reset.inbox = [] :=
  ⟨rfl, rfl, rfl⟩

/-- PlacedTableWordIsPerformed: a word of each format. -/
theorem witness_placed_words :
    decodeTableWord 24 0x6FFFF = some (.tickDmr1k 0xFFFF#16) ∧
      decodeTableWord 8 0x43 = some (.fsmStall .idle true true) := by decide

/-- StepKeepsInvariants and EmittedFrameIsThePairs: a driving tick in each state, and a stall. -/
theorem witness_inv_steps :
    (∀ f te, (hwState f 0 te [drive]).Inv hw ∧ (∃ t, step (hwState f 0 te [drive]) = .next t)) ∧
      (hwState .voice 0 true [drive]).inbox.head?.any (Input.drives hw) = true ∧
      (hwState .voice 5 true [stall]).Inv hw ∧ (∃ t, step (hwState .voice 5 true [stall]) = .next t) ∧
      (hwState .voice 5 true [stall]).inbox.head?.any (Input.drives hw) = false := by
  refine ⟨fun f te => ⟨hwState_inv _ _ _ _ fun _ => rfl, ?_⟩, by decide, hwState_inv _ _ _ _ fun h => absurd rfl h,
    ⟨_, rfl⟩, by decide⟩
  cases f <;> cases te <;> exact ⟨_, rfl⟩

/-- A session's beginning with a stall and then a reset in it. -/
def resetSession : State := { State.reset with inbox := [armWord, drive, stall, .reset] }

/-- `fsm_state` after `n` steps. -/
def fsmAfter (n : Nat) (s : State) : Option FsmState := (nextOf (Host.Core.run core n s)).map State.fsmState

/-- A run read off its evaluated `fsm_state`. -/
theorem run_next {n : Nat} {s : State} {f : FsmState} (h : fsmAfter n s = some f) :
    ∃ t : State, Host.Core.run core n s = .next t ∧ t.fsmState = f :=
  exists_next (g := State.fsmState) h

theorem resetSession_run : fsmAfter 5 resetSession = some .idle := by decide

/-- ReachableStatesMeetInvariants: a run through an arming, a header, a stall, a reset and an idle step. -/
theorem witness_reachable :
    ∃ (inputs : List Input) (t : State),
      Host.Core.run core 5 { State.reset with inbox := inputs } = .next t ∧ t.fsmState = .idle :=
  ⟨[armWord, drive, stall, .reset], run_next resetSession_run⟩

/-- NoTickWritesEnableOrArms and FrozenOutsideDmr1k: a DMR_1K tick, and ticks of the three other modes in VOICE. -/
theorem witness_ticks :
    (XWord.kind 0x60001#19 = 1#1 ∧ ∃ t, step (hwState .idle 0 true [drive]) = .next t) ∧
      (∀ w ∈ ([0x40001#19, 0x50001#19, 0x70001#19] : List XWord),
        XWord.kind w = 1#1 ∧ XWord.mode w ≠ Mode.dmr1k.code) ∧
      triple (step (hwState .voice 3 true [.txn 0x40001#19])) = some (.voice, 3, true) ∧
      triple (step (hwState .voice 3 true [.txn 0x50001#19])) = some (.voice, 3, true) :=
  ⟨⟨by decide, _, rfl⟩, by simp [XWord.kind, XWord.mode, Mode.code], by decide, by decide⟩

/-- FrozenOutsideDmr1k: an INT_DIAG tick in VOICE. -/
theorem witness_intdiag_tick :
    ∃ t, step (hwState .voice 3 true [.txn 0x70001#19]) = .next t ∧ t.fsmState = .voice := by
  refine ⟨_, rfl, ?_⟩
  rcases intDiagTick_cases (hwState .voice 3 true []) hw with ⟨_, e⟩ | ⟨_, e⟩ <;> exact congrArg State.fsmState e

/-- OnlyWriteWritesEnable and NoTickWritesEnableOrArms: a WRITE and a reset that change `te`. -/
theorem witness_enable_changes :
    (∃ t, exec (.write .other 0x01#8) (hwState .idle 0 false []) = .next t ∧ t.te ≠ (hwState .idle 0 false []).te) ∧
      (∃ t, step (hwState .voice 0 false [armWord]) = .next t ∧ t.te ≠ (hwState .voice 0 false [armWord]).te) ∧
      ∃ t, step (hwState .voice 0 true [.reset]) = .next t ∧ t.te ≠ (hwState .voice 0 true [.reset]).te :=
  ⟨⟨_, rfl, by decide⟩, ⟨_, rfl, by decide⟩, ⟨_, rfl, by decide⟩⟩

/-- OnlyVoiceRowsWriteTheBuffer: whatever the table holds, a buffer that differs from it at offset 15 is changed. -/
theorem witness_buffer_changes :
    ∃ s t : State, exec (.fsmEmitVoice true) s = .next t ∧ t.voiceBuf ≠ s.voiceBuf := by
  refine ⟨{ hwState .voice 0 true [] with voiceBuf := Config.toneRom.set 15 (embRead hw.embLut 0 1 + 1#8) }, _, rfl, ?_⟩
  intro h
  have h15 := congrArg (fun b : Frame => b[15]) h
  simp only [State.setAudioSeq_voiceBuf, State.sendVoice_voiceBuf] at h15
  rw [patch_mid _ _ _ 15 (by decide) (by omega)] at h15
  simp [hwState] at h15

/-- OnlyIntdiagWritesTheCounter: from 5 the counter goes to 6 or 0, whatever the threshold. -/
theorem witness_counter_changes :
    ∃ s t : State, exec (.tickIntdiag 0#16) s = .next t ∧ t.diagCounter ≠ s.diagCounter := by
  refine ⟨{ hwState .idle 0 false [] with diagCounter := 5#32 }, _, rfl, ?_⟩
  rcases intDiagTick_cases { hwState .idle 0 false [] with diagCounter := 5#32 } hw with ⟨_, e⟩ | ⟨_, e⟩ <;>
    rw [e] <;> decide

/-- StateMovesOnlyAlongTheTable: each of the four moves. -/
theorem witness_moves :
    triple (step (hwState .idle 0 false [armWord])) = some (.vh, 0, true) ∧
      triple (step (hwState .vh 0 true [drive])) = some (.voice, 0, true) ∧
      triple (step (hwState .voice 5 false [drive])) = some (.vt, 0, false) ∧
      triple (step (hwState .vt 0 false [drive])) = some (.idle, 0, false) := by decide

/-- StepAppendsAtMostOneFrame: a step that appends one. -/
theorem witness_one_frame :
    ∃ t, step (hwState .vh 0 true [drive]) = .next t ∧ (framesOf t.trace).length = 1 :=
  exists_next (g := fun t => (framesOf t.trace).length) (by decide)

/-- CommandsEndInOneStatus and TicksRunOneBranchByMode: a command of length 1, one of another length, and a tick. -/
theorem witness_command_words :
    XWord.kind 0x20101#19 = 0#1 ∧ XWord.len 0x20101#19 = 0x01#8 ∧ XWord.kind 0x20201#19 = 0#1 ∧
      XWord.len 0x20201#19 ≠ 0x01#8 ∧ XWord.kind 0x60001#19 = 1#1 ∧
      (∃ t, step (hwState .vh 0 true [armWord]) = .next t) ∧
      (∃ t, step (hwState .vh 0 true [.txn 0x20201#19]) = .next t) :=
  ⟨by decide, by decide, by decide, by decide, by decide, ⟨_, rfl⟩, ⟨_, rfl⟩⟩

/-- TraceStaysLegal: a legal trace that holds a record, and a step from it. -/
theorem witness_legal_trace :
    (∀ e ∈ ({ hwState .vh 0 true [drive] with trace := [.status 4#8] } : State).trace, e.legal hw = true) ∧
      ∃ t, step { hwState .vh 0 true [drive] with trace := [.status 4#8] } = .next t :=
  ⟨by decide, ⟨_, rfl⟩⟩

/-- ContextNeverReachesTheSequencer: two states that differ in the diagnostic counter. -/
theorem witness_context_differs :
    let s := hwState .voice 2 true [drive]
    let s' := { s with diagCounter := 9#32 }
    s ≠ s' ∧ s.fsmState = s'.fsmState ∧ s.audioSeq = s'.audioSeq ∧ s.te = s'.te ∧ s.voiceBuf = s'.voiceBuf ∧
      s.inbox = s'.inbox ∧ (∃ t, step s = .next t) ∧ ∃ t, step s' = .next t :=
  ⟨fun h => absurd (congrArg State.diagCounter h) (by decide), rfl, rfl, rfl, rfl, rfl, ⟨_, rfl⟩, ⟨_, rfl⟩⟩

/-- SpaceIsReadOnlyAgainstOne: the boundary values 1 and 65535 read alike. -/
theorem witness_spaces : (1#16 ≤ 1#16 ↔ 1#16 ≤ 0xFFFF#16) ∧ ¬ 1#16 ≤ 0#16 := by decide

/-- RearmDoesNotRestart: a re-arm in VT, and one in VOICE at the wrap. -/
theorem witness_rearm :
    (∀ f ∈ [FsmState.vh, .voice, .vt], f ≠ .idle) ∧
      (hwState .vt 0 false [armWord, drive, drive]).inbox =
        .txn (commandWord .dmr1k [0x01#8]) :: .txn (tickWord .dmr1k 1#16) :: .txn (tickWord .dmr1k 1#16) :: [] ∧
      (1#16 : Space) ≤ 1#16 := by decide

theorem tick_words : tickWord .dmr1k 1#16 = 0x60001#19 ∧ tickWord .dmr1k 0#16 = 0x60000#19 := by decide

/-- StallsChangeNothingForEver and PositionsCycle: the pending words have the form the statements ask for. -/
theorem witness_replicated_ticks :
    [stall, stall, stall, drive] = List.replicate 3 (.txn (tickWord .dmr1k 0#16)) ++ [drive] ∧
      (hwState .voice 4 true [drive, drive, drive, stall]).Inv hw ∧
      [drive, drive, drive, stall] =
        ([1#16, 1#16, 1#16] : List Space).map (fun sp => .txn (tickWord .dmr1k sp)) ++ [stall] ∧
      ∀ sp ∈ ([1#16, 1#16, 1#16] : List Space), 1#16 ≤ sp :=
  ⟨by simp [stall, drive, tick_words], hwState_inv _ _ _ _ fun h => absurd rfl h, by simp [stall, drive, tick_words],
    by simp⟩

/-- A disarmed session from VH: the header, six voice frames, with a stall among them. -/
def endingSession : State := hwState .vh 0 false [drive, drive, stall, drive, drive, drive, drive, drive, drive]

theorem endingSession_inputs : ∀ i ∈ endingSession.inbox, i ≠ .reset ∧ i.enables = false := by decide

theorem endingSession_at_vt : fsmAfter 8 endingSession = some .vt := by decide

theorem endingSession_at_idle : fsmAfter 9 endingSession = some .idle := by decide

/-- DisarmIsHonouredOnlyAtTheWrap: VT is first reached after the eight inputs that include the stall. -/
theorem witness_disarmed_run :
    endingSession.Inv hw ∧ endingSession.te = false ∧ endingSession.fsmState = .vh ∧
      (∀ i ∈ endingSession.inbox, i ≠ .reset ∧ i.enables = false) ∧
      (∃ t : State, Host.Core.run core 8 endingSession = .next t ∧ t.fsmState = .vt) ∧
      ∀ j < 8, (fsmAfter j endingSession).any (· != .vt) = true :=
  ⟨hwState_inv _ _ _ _ fun _ => rfl, rfl, rfl, endingSession_inputs, run_next endingSession_at_vt, by decide⟩

/-- SessionHasItsShape and DisarmedSessionReachesIdle: IDLE is first reached after nine inputs, eight of them driving. -/
theorem witness_whole_session :
    (∀ i ∈ endingSession.inbox, i ≠ .reset) ∧
      (∃ t : State, Host.Core.run core 9 endingSession = .next t ∧ t.fsmState = .idle) ∧
      (∀ j < 9, (fsmAfter j endingSession).any (· != .idle) = true) ∧
      endingSession.ticksToIdle = 8 ∧ endingSession.inbox.countP (Input.drives hw) = 8 :=
  ⟨fun i hi => (endingSession_inputs i hi).1, run_next endingSession_at_idle, by decide, by decide, by decide⟩

/-- DiagnosticLogsOncePerWindow: the fixture's threshold. -/
theorem witness_diagnostic_window :
    0 < fx.diagThreshold ∧ fx.diagThreshold ≤ 2 ^ 32 - 1 ∧ (fxState .idle 0 false 0).diagCounter = 0#32 := by decide

/-- HostWriteIsDecodedByLength: no byte, one byte, and 257 bytes (whose length does not fit the field). -/
theorem witness_host_data :
    State.reset.inbox = [] ∧ ([] : List Byte).length ≠ 1 ∧ ([0x01#8] : List Byte) = [0x01#8] ∧
      lenField 257 ≠ 0x01#8 := by decide

/-- CommandOfferedWithTickGoesFirst: the reset state, and the boundary space. -/
theorem witness_offer : State.reset.inbox = [] ∧ State.reset.fsmState = .idle ∧ (1#16 : Space) ≤ 1#16 := by decide

end Sys2Proof.Tests
end

namespace Sys2Proof.Machine

/-! ### ASSEMBLE on this hardware, byte by byte -/

/-- Under this hardware's mask a merge keeps the low nibble and takes the high nibble (40_assembler.md R120). -/
theorem mergeMasked_highNibble (dst src : Byte) :
    mergeMasked 0xF0#8 dst src = (dst &&& 0x0F#8) ||| (src &&& 0xF0#8) := rfl

/-- The patcher with this hardware's masks and table does to every byte what R120 says. -/
theorem patch_hw_assembledFrom (n : Fin 6) (b : Frame) : AssembledFrom n b (patch hw n b) := by
  refine ⟨fun i hi => patch_outside hw n b i i.isLt hi, ?byte14,
    patch_mid hw n b 15 (by decide) (by decide), patch_mid hw n b 16 (by decide) (by decide),
    patch_mid hw n b 17 (by decide) (by decide), patch_mid hw n b 18 (by decide) (by decide),
    patch_mid hw n b 19 (by decide) (by decide), ?byte20⟩
  case byte14 => rw [patch_14, hw_m14, mergeMasked_highNibble]
  case byte20 => rw [patch_20, hw_m20, mergeMasked_highNibble]

/-- Settles O15: the bytes are the patcher's, and ASSEMBLE is a write of `voice_buf` alone. -/
theorem assembleWritesThePatchRegion : Obligations.AssembleWritesThePatchRegion :=
  fun s n => ⟨patch_hw_assembledFrom n s.voiceBuf, patch hw n s.voiceBuf, rfl⟩

end Sys2Proof.Machine

namespace Sys2Proof

/-! ### The format-K rows and the keys they take -/

/-- A micro-operation's row of the opcode map (30_encoding.md R96). -/
def MicroOp.opRow (m : MicroOp) : OpRow 7 :=
  match m with
  | .stall => kRows[0]
  | .idle => kRows[1]
  | .emitVh => kRows[2]
  | .emitVoice => kRows[3]
  | .voiceWrapCont => kRows[4]
  | .voiceWrapEnd => kRows[5]
  | .emitVt => kRows[6]

/-- A row's mask and pattern take exactly the keys of mode DMR_1K that select it (R96, R97). -/
theorem MicroOp.opRow_takes_iff_row (m : MicroOp) (k : Key) :
    k &&& m.opRow.mask = m.opRow.pattern ↔ k.mode = 0b10#2 ∧ k.row = m := by
  revert k
  cases m <;> decide

/-- Different micro-operations are different constructors of `Instr`, whatever key bits these carry. -/
theorem MicroOp.eq_of_toInstr_eq {m m' : MicroOp} {f f' : FsmState} {q q' t t' : Bool}
    (h : m.toInstr f q t = m'.toInstr f' q' t') : m = m' := by
  cases m <;> cases m' <;> cases h <;> rfl

/-- What a key decodes to when it comes as the bits of a table row (R94, R97). -/
theorem decodeTableWord_key (k : Key) (i : Instr) :
    decodeTableWord 8 k.toNat = some i ↔
      k.mode = 0b10#2 ∧ k.row.toInstr (FsmState.ofCode k.state) k.seq5 k.te = i := by
  have hcode : codeOfNat 8 k.toNat = .ok (.k k) := by simp [codeOfNat, k.isLt]
  by_cases hm : k.mode = 0b10#2 <;> simp [decodeTableWord, decodeNat, hcode, decode, hm]

/-- A row takes exactly the keys that decode to its micro-operation, with some value of each free key bit. -/
theorem MicroOp.opRow_takes_iff_decodes (m : MicroOp) (k : Key) :
    k &&& m.opRow.mask = m.opRow.pattern ↔
      ∃ f q t, decodeTableWord 8 k.toNat = some (m.toInstr f q t) := by
  rw [m.opRow_takes_iff_row]
  constructor
  · rintro ⟨hmode, rfl⟩
    exact ⟨_, _, _, (decodeTableWord_key k _).2 ⟨hmode, rfl⟩⟩
  · rintro ⟨f, q, t, h⟩
    obtain ⟨hmode, hi⟩ := (decodeTableWord_key k _).1 h
    exact ⟨hmode, MicroOp.eq_of_toInstr_eq hi⟩

end Sys2Proof

namespace Sys2Proof.Machine

/-! ### The micro-operations and the tick that selects one -/

/-- A micro-operation's instruction performs its row, whatever the key bits it carries. -/
theorem exec_toInstr (m : MicroOp) (f : FsmState) (q t : Bool) (s : State) :
    exec (m.toInstr f q t) s = performRow hw m s := by
  cases m <;> rfl

/-- FSM_STEP performs the row that its four conditions select (41_sequencer.md R141). -/
theorem fsmStep_eq_performRow (p : Params) (sp : Space) (s : State) :
    fsmStep p sp s = performRow p (selectRow s.fsmState (spaceOk p sp) s.seq5 s.te) s := by
  rw [fsmStep, State.key, Key.form_row]

/-- FSM_STEP completes and appends at most one `FrameOut`, and no other event (41_sequencer.md R141). -/
theorem fsmStep_appends_at_most_one_frame (p : Params) (sp : Space) (s : State) :
    ∃ t es, fsmStep p sp s = .next t ∧ t.trace = s.trace ++ es ∧
      (es = [] ∨ ∃ b, es = [.frameOut b Config.frameBytes]) := by
  rcases fsmStep_cases s p sp with ⟨_, h⟩ | ⟨_, _, h⟩ | ⟨_, _, h⟩ | ⟨_, _, _, h⟩ | ⟨_, _, _, _, h⟩ |
    ⟨_, _, _, _, h⟩ | ⟨_, _, h⟩
  case inl | inr.inl => exact ⟨s, [], h, by simp, .inl rfl⟩
  all_goals exact ⟨_, _, h, rfl, .inr ⟨_, rfl⟩⟩

/-- Settles O6: the key is the formed key of the state, and FSM_STEP's cases give the one frame at most. -/
theorem tickDmr1kPerformsTheSelectedRow : Obligations.TickDmr1kPerformsTheSelectedRow := by
  intro space s
  refine ⟨_, decode_form s.fsmState (spaceOk hw space) s.seq5 s.te, ?_,
    fsmStep_appends_at_most_one_frame hw space s⟩
  calc exec (.tickDmr1k space) s
    _ = fsmStep hw space s := rfl
    _ = performRow hw (selectRow s.fsmState (spaceOk hw space) s.seq5 s.te) s :=
        fsmStep_eq_performRow hw space s
    _ = _ := (exec_toInstr _ _ _ _ s).symm

/-- Settles O8: the keys by the rows' masks, and both rows leave the state as it is. -/
theorem stallAndIdleChangeNothing : Obligations.StallAndIdleChangeNothing := by
  refine ⟨MicroOp.stall.opRow_takes_iff_decodes, fun k => ?_, fun st seq5 te s => ?_, fun seq5 te s => ?_⟩
  · exact (MicroOp.idle.opRow_takes_iff_decodes k).trans (by simp only [MicroOp.toInstr, exists_const])
  · exact exec_toInstr .stall st seq5 te s
  · exact exec_toInstr .idle .idle seq5 te s

/-- Settles O9: the keys by the row's mask, and the row is an emission and a move to VOICE. -/
theorem emitVhSendsHeader : Obligations.EmitVhSendsHeader :=
  ⟨fun k => (MicroOp.emitVh.opRow_takes_iff_decodes k).trans (by simp only [MicroOp.toInstr, exists_const]),
    fun seq5 te s => exec_toInstr .emitVh .vh seq5 te s⟩

/-- Settles O10: below position 5 the row patches with the present position, emits and advances. -/
theorem emitVoiceSendsAndAdvances : Obligations.EmitVoiceSendsAndAdvances := by
  refine ⟨fun k => ?_, fun te s hpos => ?_⟩
  · exact (MicroOp.emitVoice.opRow_takes_iff_decodes k).trans (by simp only [MicroOp.toInstr, exists_const])
  · have hrow : exec (.fsmEmitVoice te) s = _ :=
      (exec_toInstr .emitVoice .voice false te s).trans (emitVoiceRow_of_lt s hw (by omega))
    exact ⟨_, hrow, patch_hw_assembledFrom s.audioSeq s.voiceBuf, rfl, rfl, rfl, rfl, rfl, rfl, rfl⟩

/-- Settles O14: the keys by the row's mask, and the row is an emission and a move to IDLE. -/
theorem emitVtSendsTerminator : Obligations.EmitVtSendsTerminator :=
  ⟨fun k => (MicroOp.emitVt.opRow_takes_iff_decodes k).trans (by simp only [MicroOp.toInstr, exists_const]),
    fun seq5 te s => exec_toInstr .emitVt .vt seq5 te s⟩

end Sys2Proof.Machine

namespace Sys2Proof

/-! ### The tick rows and the words they take -/

/-- The row of a tick determines its mode and its space (30_encoding.md R96). -/
theorem tickRow_injective {m m' : Mode} {sp sp' : Space} (h : tickRow m sp = tickRow m' sp') :
    m = m' ∧ sp = sp' := by
  cases m <;> cases m' <;> cases h <;> exact ⟨rfl, rfl⟩

/-- No command decodes to the row of a tick (30_encoding.md R91, R96). -/
theorem commandRow_ne_tickRow (m m' : Mode) (len d0 : Byte) (sp : Space) :
    commandRow m len d0 ≠ tickRow m' sp := by
  by_cases hl : len = 0x01#8
  · rw [commandRow, if_pos hl]; cases m' <;> exact nofun
  · rw [commandRow, if_neg hl]; cases m' <;> exact nofun

/-- A tick row's mask and pattern take exactly the words that decode to a tick of its mode (R96, R97). -/
theorem mask_tick_iff_decodes (w : XWord) (m : Mode) :
    w &&& 0x70000#19 = (1#1 ++ m.code ++ 0#16 : BitVec 19) ↔ ∃ sp, decode (.x w) = .ok (tickRow m sp) := by
  rw [mask_tick]
  constructor
  · rintro ⟨hkind, hmode⟩
    refine ⟨XWord.space w, congrArg Except.ok ?_⟩
    rw [decodeTxn_kind1 hkind, hmode, Mode.ofCode_code]
  · rintro ⟨sp, h⟩
    have hrow : decodeTxn w = tickRow m sp := Except.ok.inj h
    rcases XWord.command_or_tick w with ⟨m', len, d0, rfl⟩ | ⟨m', sp', rfl⟩
    · rw [decodeTxn_command] at hrow
      exact absurd hrow (commandRow_ne_tickRow m' m len d0 sp)
    · rw [decodeTxn_tick] at hrow
      obtain ⟨rfl, -⟩ := tickRow_injective hrow
      exact ⟨XWord.tick_kind m' sp', XWord.tick_mode m' sp'⟩

/-- The branch of a mode field, as 42_dispatcher.md R170 lists the branches. -/
theorem tickRow_ofCode (c : BitVec 2) (sp : Space) :
    tickRow (Mode.ofCode c) sp =
      if c = 0b10#2 then .tickDmr1k sp
      else if c = 0b01#2 then .tickFullcal sp
      else if c = 0b11#2 then .tickIntdiag sp
      else .tickOther sp := by
  obtain ⟨m, rfl⟩ : ∃ m : Mode, c = m.code := ⟨_, (Mode.code_ofCode c).symm⟩
  cases m <;> rfl

end Sys2Proof

namespace Sys2Proof.Machine

/-! ### The ticks: what each performs, and what every one of them keeps -/

theorem exec_tickOther (sp : Space) (s : State) : exec (.tickOther sp) s = .next s := rfl

theorem exec_tickFullcal (sp : Space) (s : State) : exec (.tickFullcal sp) s = .next (fullCalTick s) := rfl

theorem exec_tickDmr1k (sp : Space) (s : State) : exec (.tickDmr1k sp) s = fsmStep hw sp s := rfl

theorem exec_tickIntdiag (sp : Space) (s : State) : exec (.tickIntdiag sp) s = .next (intDiagTick hw s) := rfl

/-- Settles O3: the words by the row's mask, and the branch is a no-op. -/
theorem tickOtherDoesNothing : Obligations.TickOtherDoesNothing :=
  ⟨fun w => mask_tick_iff_decodes w .other, exec_tickOther⟩

/-- Settles O4: the words by the row's mask, and the branch appends its one or two events. -/
theorem tickFullcalForwardsEnable : Obligations.TickFullcalForwardsEnable := by
  refine ⟨fun w => mask_tick_iff_decodes w .fullCal, fun space s => ?_⟩
  rw [exec_tickFullcal, fullCalTick_eq, List.append_assoc, Bool.cond_eq_ite]
  rfl

/-- What every tick keeps, whatever its mode: `te`, an IDLE sequencer, and the trace but for new records, none of
them a `Status` (42_dispatcher.md R170, R175). -/
structure State.TickKeeps (s t : State) : Prop where
  te : t.te = s.te
  idle : s.fsmState = .idle → t.fsmState = .idle
  trace : ∃ es : List Event, (∀ e ∈ es, e.isStatus = false) ∧ t.trace = s.trace ++ es

theorem State.tickKeeps_refl (s : State) : s.TickKeeps s :=
  ⟨rfl, id, [], by simp, (List.append_nil _).symm⟩

theorem fullCalTick_keeps (s : State) : s.TickKeeps (fullCalTick s) := by
  rw [fullCalTick_eq]
  refine ⟨rfl, id, _, ?_, rfl⟩
  cases s.te <;> simp [Event.isStatus]

theorem diagLine_isStatus (sel : ShiftSel) (c : IntCount × IntCount) : (diagLine sel c).isStatus = false := by
  cases sel <;> rfl

theorem intDiagTick_keeps (p : Params) (s : State) : s.TickKeeps (intDiagTick p s) := by
  rcases intDiagTick_cases s p with ⟨_, h⟩ | ⟨_, h⟩ <;> rw [h]
  · exact ⟨rfl, id, s.tickKeeps_refl.trace⟩
  · exact ⟨rfl, id, _, List.forall_mem_cons.2 ⟨rfl, List.forall_mem_singleton.2 (diagLine_isStatus _ _)⟩, rfl⟩

/-- No micro-operation that FSM_STEP selects writes `te` (41_sequencer.md R142 to R148). -/
theorem fsmStep_te {p : Params} {sp : Space} {s t : State} (h : fsmStep p sp s = .next t) : t.te = s.te := by
  rcases fsmStep_cases s p sp with ⟨_, e⟩ | ⟨_, _, e⟩ | ⟨_, _, e⟩ | ⟨_, _, _, e⟩ | ⟨_, _, _, _, e⟩ |
    ⟨_, _, _, _, e⟩ | ⟨_, _, e⟩
  all_goals rw [e] at h; cases h; rfl

/-- In IDLE a DMR_1K tick does nothing, with or without space (41_sequencer.md R142, R143). -/
theorem fsmStep_of_idle (p : Params) (sp : Space) {s : State} (hf : s.fsmState = .idle) :
    fsmStep p sp s = .next s := by
  rw [fsmStep_eq_performRow, hf]
  cases spaceOk p sp <;> rfl

theorem fsmStep_keeps (p : Params) (sp : Space) (s : State) :
    ∃ t, fsmStep p sp s = .next t ∧ s.TickKeeps t := by
  obtain ⟨t, es, h, htrace, hes⟩ := fsmStep_appends_at_most_one_frame p sp s
  refine ⟨t, h, fsmStep_te h, fun hf => ?_, es, ?_, htrace⟩
  · cases h.symm.trans (fsmStep_of_idle p sp hf)
    exact hf
  · rcases hes with rfl | ⟨b, rfl⟩ <;> simp [Event.isStatus]

/-- A tick of any mode completes and keeps what `State.TickKeeps` says. -/
theorem exec_tickRow_keeps (m : Mode) (sp : Space) (s : State) :
    ∃ t, exec (tickRow m sp) s = .next t ∧ s.TickKeeps t := by
  cases m with
  | other => exact ⟨s, exec_tickOther sp s, s.tickKeeps_refl⟩
  | fullCal => exact ⟨_, exec_tickFullcal sp s, fullCalTick_keeps s⟩
  | dmr1k =>
    rw [tickRow, exec_tickDmr1k]
    exact fsmStep_keeps hw sp s
  | intDiag => exact ⟨_, exec_tickIntdiag sp s, intDiagTick_keeps hw s⟩

section
variable {s t : State} {w : XWord} {rest : List Input}

/-- A word of kind 1 is performed as the tick of its own mode and space (42_dispatcher.md R170). -/
theorem step_of_kind_tick (h : s.inbox = .txn w :: rest) (hk : XWord.kind w = 1#1) :
    step s = exec (tickRow (Mode.ofCode (XWord.mode w)) (XWord.space w)) (s.setInbox rest) := by
  rw [step_txn h, decodeTxn_kind1 hk]

/-- The step of a pending tick completes and keeps what `State.TickKeeps` says. -/
theorem step_tick_keeps (h : s.inbox = .txn w :: rest) (hk : XWord.kind w = 1#1) :
    ∃ t, step s = .next t ∧ (s.setInbox rest).TickKeeps t := by
  rw [step_of_kind_tick h hk]
  exact exec_tickRow_keeps _ _ _

/-- A command of any length but 1 leaves `te` as it was (43_command.md R191). -/
theorem step_command_te_of_len_ne_one {m : Mode} {len d0 : Byte}
    (h : s.inbox = .txn (XWord.command m len d0) :: rest) (hl : len ≠ 0x01#8) (hs : step s = .next t) :
    t.te = s.te := by
  rw [step_command h, if_neg hl] at hs
  cases hs
  rfl

end

/-- Settles O39: the branch by the mode field, and no branch appends a `Status`. -/
theorem ticksRunOneBranchByMode : Obligations.TicksRunOneBranchByMode := by
  intro s w rest h hk
  constructor
  · rw [step_of_kind_tick h hk, tickRow_ofCode]
    rfl
  · obtain ⟨t, hs, hkeeps⟩ := step_tick_keeps h hk
    obtain ⟨es, hes, htrace⟩ := hkeeps.trace
    exact ⟨t, es, hs, hes, htrace⟩

/-- Settles O31: every tick keeps `te` and an IDLE sequencer; of the other inputs, a reset and a WRITE are named, and
WRITE_BADLEN keeps `te`. -/
theorem noTickWritesEnableOrArms : Obligations.NoTickWritesEnableOrArms := by
  have hticks : ∀ (s t : State) (w : XWord) (rest : List Input), s.inbox = .txn w :: rest →
      XWord.kind w = 1#1 → step s = .next t → t.te = s.te ∧ (s.fsmState = .idle → t.fsmState = .idle) := by
    intro s t w rest h hk hs
    obtain ⟨t', hs', hkeeps⟩ := step_tick_keeps h hk
    cases hs'.symm.trans hs
    exact ⟨hkeeps.te, hkeeps.idle⟩
  refine ⟨hticks, fun s t hs hte => ?_⟩
  rcases inbox_cases s with h | ⟨rest, h⟩ | ⟨m, len, d0, rest, h⟩ | ⟨m, sp, rest, h⟩
  · rw [step_nil h] at hs
    cases hs
    exact absurd rfl hte
  · exact .inl ⟨rest, h⟩
  · by_cases hl : len = 0x01#8
    · subst hl
      exact .inr ⟨_, rest, m, d0, h, Laws.RoundTrip.write m d0 rfl⟩
    · exact absurd (step_command_te_of_len_ne_one h hl hs) hte
  · exact absurd (hticks s t _ rest h (XWord.tick_kind m sp) hs).1 hte

end Sys2Proof.Machine

namespace Sys2Proof

/-! ### The command rows and the words they take -/

theorem commandRow_len_one (m : Mode) (d0 : Byte) : commandRow m 0x01#8 d0 = .write m d0 := if_pos rfl

theorem commandRow_of_len_ne_one (m : Mode) {len : Byte} (d0 : Byte) (hl : len ≠ 0x01#8) :
    commandRow m len d0 = .writeBadlen m len d0 := if_neg hl

/-- The row of a command determines its mode, its length and its byte (30_encoding.md R96). -/
theorem commandRow_injective {m m' : Mode} {len len' d0 d0' : Byte}
    (h : commandRow m len d0 = commandRow m' len' d0') : m = m' ∧ len = len' ∧ d0 = d0' := by
  unfold commandRow at h
  split_ifs at h with hl hl'
  · cases h
    exact ⟨rfl, hl.trans hl'.symm, rfl⟩
  · cases h
    exact ⟨rfl, rfl, rfl⟩

/-- The command words are the only words that decode to a command's row (30_encoding.md R91, R97). -/
theorem decode_eq_commandRow_iff (w : XWord) (m : Mode) (len d0 : Byte) :
    decode (.x w) = .ok (commandRow m len d0) ↔ w = XWord.command m len d0 := by
  constructor
  · intro h
    have hrow : decodeTxn w = commandRow m len d0 := Except.ok.inj h
    rcases XWord.command_or_tick w with ⟨m', len', d0', rfl⟩ | ⟨m', sp, rfl⟩
    · rw [decodeTxn_command] at hrow
      obtain ⟨rfl, rfl, rfl⟩ := commandRow_injective hrow
      rfl
    · rw [decodeTxn_tick] at hrow
      exact absurd hrow.symm (commandRow_ne_tickRow m m' len d0 sp)
  · rintro rfl
    exact congrArg Except.ok (decodeTxn_command m len d0)

/-- A word is a command with a length that meets `P` exactly if it decodes to the row of one (30_encoding.md R97). -/
theorem command_with_len_iff_decodes (P : Byte → Prop) (w : XWord) :
    XWord.kind w = 0#1 ∧ P (XWord.len w) ↔
      ∃ m len d0, P len ∧ decode (.x w) = .ok (commandRow m len d0) := by
  simp only [decode_eq_commandRow_iff]
  constructor
  · rintro ⟨hkind, hlen⟩
    exact ⟨_, _, _, hlen, (XWord.eq_command w hkind).symm⟩
  · rintro ⟨m, len, d0, hlen, rfl⟩
    rw [XWord.command_len]
    exact ⟨XWord.command_kind m len d0, hlen⟩

/-- WRITE's mask and pattern take exactly the words that decode to a WRITE (R96, R97). -/
theorem mask_write_iff_decodes (w : XWord) :
    w &&& 0x4FF00#19 = 0x00100#19 ↔ ∃ m d0, decode (.x w) = .ok (.write m d0) := by
  rw [mask_write, command_with_len_iff_decodes (· = 0x01#8)]
  simp only [exists_and_left, exists_eq_left, commandRow_len_one]

/-- The command words that WRITE's mask and pattern leave are exactly those that decode to a WRITE_BADLEN (R96, R97). -/
theorem mask_writeBadlen_iff_decodes (w : XWord) :
    (w &&& 0x40000#19 = 0x00000#19 ∧ ¬ w &&& 0x4FF00#19 = 0x00100#19) ↔
      ∃ m len d0, len ≠ 0x01#8 ∧ decode (.x w) = .ok (.writeBadlen m len d0) := by
  calc (w &&& 0x40000#19 = 0x00000#19 ∧ ¬ w &&& 0x4FF00#19 = 0x00100#19)
    _ ↔ XWord.kind w = 0#1 ∧ XWord.len w ≠ 0x01#8 := by
        rw [mask_kind, mask_write, not_and, and_congr_right_iff]
        exact forall_prop_of_true
    _ ↔ _ := command_with_len_iff_decodes (· ≠ 0x01#8) w
    _ ↔ _ := exists_congr fun m => exists_congr fun len => exists_congr fun d0 =>
        and_congr_right fun hl => by rw [commandRow_of_len_ne_one m d0 hl]

end Sys2Proof

namespace Sys2Proof.Machine

/-! ### The commands: what each performs, and the one `Status` that ends every one of them -/

theorem exec_write (m : Mode) (d0 : Byte) (s : State) : exec (.write m d0) s = .next (writeCommand hw m d0 s) := rfl

theorem exec_writeBadlen (m : Mode) (len d0 : Byte) (s : State) :
    exec (.writeBadlen m len d0) s = .next (s.emit (.status statusBadlen)) := rfl

/-- Settles O1: the words by the row's mask, and the effect by the closed form of WRITE on this hardware. -/
theorem writeSetsEnableArmsAndAnswers : Obligations.WriteSetsEnableArmsAndAnswers := by
  refine ⟨mask_write_iff_decodes, fun mode d0 s => ?_⟩
  rw [exec_write, writeCommand_hw]
  rfl

/-- Settles O2: the words by the two rows' masks, and the effect is the append of one `Status`. -/
theorem writeBadlenAnswersFourOnly : Obligations.WriteBadlenAnswersFourOnly :=
  ⟨mask_writeBadlen_iff_decodes, exec_writeBadlen⟩

/-- A command of any length completes, and its one `Status` is the last record it appends (43_command.md R190). -/
theorem exec_commandRow_ends_in_status (m : Mode) (len d0 : Byte) (s : State) :
    ∃ t es, exec (commandRow m len d0) s = .next t ∧ (∀ e ∈ es, e.isStatus = false) ∧
      t.trace = s.trace ++ es ++ [.status (if len = 0x01#8 then statusOk else statusBadlen)] := by
  by_cases hl : len = 0x01#8
  · subst hl
    rw [commandRow_len_one, exec_write, writeCommand_hw]
    refine ⟨_, if d0 = 0x01#8 then [.rfIfConf hw.rfDmrTag true] else [], rfl, ?_, rfl⟩
    split_ifs <;> simp [Event.isStatus]
  · rw [commandRow_of_len_ne_one m d0 hl, exec_writeBadlen, if_neg hl]
    exact ⟨_, [], rfl, by simp, by simp⟩

/-- A word of kind 0 is performed as the command of its own mode, length and byte (43_command.md R190). -/
theorem step_of_kind_command {s : State} {w : XWord} {rest : List Input} (h : s.inbox = .txn w :: rest)
    (hk : XWord.kind w = 0#1) :
    step s = exec (commandRow (Mode.ofCode (XWord.mode w)) (XWord.len w) (XWord.d0 w)) (s.setInbox rest) := by
  rw [step_txn h, decodeTxn_kind0 hk]

/-- Settles O38: the row by the length field, and either row appends its `Status` last and no other one. -/
theorem commandsEndInOneStatus : Obligations.CommandsEndInOneStatus := by
  intro s w rest h hk
  have hstep := step_of_kind_command h hk
  refine ⟨⟨_, Mode.code_ofCode _, hstep⟩, ?_⟩
  rw [hstep]
  exact exec_commandRow_ends_in_status _ _ _ (s.setInbox rest)

end Sys2Proof.Machine

namespace Sys2Proof

/-! ### Decoding and encoding are inverse -/

/-- Decoding the encoding of a well-formed instruction gives it back, for every row of the map. -/
theorem decode_encode (i : Instr) (h : i.wellFormed = true) : decode (encode i) = .ok i := by
  cases i with
  | write m d0 => exact Laws.RoundTrip.write m d0 h
  | writeBadlen m len d0 => exact Laws.RoundTrip.writeBadlen m len d0 h
  | tickOther sp => exact Laws.RoundTrip.tickOther sp h
  | tickFullcal sp => exact Laws.RoundTrip.tickFullcal sp h
  | tickDmr1k sp => exact Laws.RoundTrip.tickDmr1k sp h
  | tickIntdiag sp => exact Laws.RoundTrip.tickIntdiag sp h
  | fsmStall st q t => exact Laws.RoundTrip.fsmStall st q t h
  | fsmIdle q t => exact Laws.RoundTrip.fsmIdle q t h
  | fsmEmitVh q t => exact Laws.RoundTrip.fsmEmitVh q t h
  | fsmEmitVoice t => exact Laws.RoundTrip.fsmEmitVoice t h
  | fsmVoiceWrapCont => exact Laws.RoundTrip.fsmVoiceWrapCont h
  | fsmVoiceWrapEnd => exact Laws.RoundTrip.fsmVoiceWrapEnd h
  | fsmEmitVt q t => exact Laws.RoundTrip.fsmEmitVt q t h

/-- A command's row is well-formed, and its encoding is the command word of its fields (30_encoding.md R91, R97). -/
theorem encode_commandRow (m : Mode) (len d0 : Byte) :
    (commandRow m len d0).wellFormed = true ∧ encode (commandRow m len d0) = .x (XWord.command m len d0) := by
  by_cases hl : len = 0x01#8
  · subst hl
    rw [commandRow_len_one]
    exact ⟨rfl, rfl⟩
  · rw [commandRow_of_len_ne_one m d0 hl]
    exact ⟨by simpa [Instr.wellFormed] using hl, rfl⟩

/-- A tick's row is well-formed, and its encoding is the tick word of its fields (30_encoding.md R91). -/
theorem encode_tickRow (m : Mode) (sp : Space) :
    (tickRow m sp).wellFormed = true ∧ encode (tickRow m sp) = .x (XWord.tick m sp) := by
  cases m <;> exact ⟨rfl, rfl⟩

/-- The row that a transaction word decodes to is well-formed and has that word as its encoding. -/
theorem encode_decodeTxn (w : XWord) : (decodeTxn w).wellFormed = true ∧ encode (decodeTxn w) = .x w := by
  rcases XWord.command_or_tick w with ⟨m, len, d0, rfl⟩ | ⟨m, sp, rfl⟩
  · rw [decodeTxn_command]
    exact encode_commandRow m len d0
  · rw [decodeTxn_tick]
    exact encode_tickRow m sp

/-- The row that four conditions select is well-formed and has their formed key as its encoding (R94, R96). -/
theorem encode_selectRow (f : FsmState) (a q t : Bool) :
    ((selectRow f a q t).toInstr f q t).wellFormed = true ∧
      encode ((selectRow f a q t).toInstr f q t) = .k (Key.form f a q t) := by
  cases a with
  | false => exact ⟨rfl, rfl⟩
  | true =>
    cases f with
    | idle | vh | vt => exact ⟨rfl, rfl⟩
    | voice => cases q <;> cases t <;> exact ⟨rfl, rfl⟩

/-- A key decodes exactly if its mode is DMR_1K, and then to the row that its own parts select (R94, R97). -/
theorem decode_key_eq_ok_iff (k : Key) (i : Instr) :
    decode (.k k) = .ok i ↔
      k.mode = 0b10#2 ∧ k.row.toInstr (FsmState.ofCode k.state) k.seq5 k.te = i := by
  rw [decode]
  split_ifs with hm <;> simp [hm]

/-- Every code that decodes is the encoding of the well-formed instruction it decodes to. -/
theorem encode_of_decode {c : Code} {i : Instr} (h : decode c = .ok i) :
    i.wellFormed = true ∧ encode i = c := by
  cases c with
  | x w =>
    cases h
    exact encode_decodeTxn w
  | k key =>
    obtain ⟨hmode, rfl⟩ := (decode_key_eq_ok_iff key i).1 h
    have hkey := encode_selectRow (FsmState.ofCode key.state) key.spaceOk key.seq5 key.te
    rwa [Key.eq_form key hmode] at hkey

/-- Settles O20: one direction row by row, the other by the fields of the word or of the key. -/
theorem decodeAndEncodeAgree : Obligations.DecodeAndEncodeAgree :=
  ⟨decode_encode, fun _ _ => encode_of_decode⟩

/-! ### The opcode map's rows -/

/-- A row of either format takes a code by its mask and pattern (30_encoding.md R96). -/
theorem OpRow.takes_iff {n : Nat} (r : OpRow n) (w : BitVec n) : r.takes w = true ↔ w &&& r.mask = r.pattern := by
  rw [OpRow.takes, beq_iff_eq]

/-- A first row that takes a word is the first row that takes it. -/
theorem firstRow_cons_of_takes {n : Nat} {r : OpRow n} {rows : List (OpRow n)} {w : BitVec n}
    (h : w &&& r.mask = r.pattern) : firstRow (r :: rows) w = some r.mnemonic :=
  congrArg (Option.map OpRow.mnemonic) (List.find?_cons_of_pos ((r.takes_iff w).2 h))

/-- A first row that does not take a word leaves it to the rows after it. -/
theorem firstRow_cons_of_not_takes {n : Nat} {r : OpRow n} {rows : List (OpRow n)} {w : BitVec n}
    (h : ¬ w &&& r.mask = r.pattern) : firstRow (r :: rows) w = firstRow rows w :=
  congrArg (Option.map OpRow.mnemonic) (List.find?_cons_of_neg (mt (r.takes_iff w).1 h))

/-- The first row of format X that takes a command word is the one of its length (R97). -/
theorem firstRow_command (m : Mode) (len d0 : Byte) :
    firstRow xRows (XWord.command m len d0) = some (commandRow m len d0).mnemonic := by
  have hkind : XWord.kind (XWord.command m len d0) = 0#1 := XWord.command_kind m len d0
  have hlen : XWord.len (XWord.command m len d0) = len := XWord.command_len m len d0
  by_cases hl : len = 0x01#8
  · rw [hl, commandRow_len_one, ← hl]
    exact firstRow_cons_of_takes ((mask_write _).2 ⟨hkind, hlen.trans hl⟩)
  · rw [commandRow_of_len_ne_one m d0 hl]
    exact Eq.trans (firstRow_cons_of_not_takes fun h => hl (hlen.symm.trans ((mask_write _).1 h).2))
      (firstRow_cons_of_takes ((mask_kind _).2 hkind))

/-- The first row of format X that takes a tick word is the one of its mode (R96). -/
theorem firstRow_tick (m : Mode) (sp : Space) :
    firstRow xRows (XWord.tick m sp) = some (tickRow m sp).mnemonic := by
  have hkind : XWord.kind (XWord.tick m sp) ≠ 0#1 := kind_ne.2 (XWord.tick_kind m sp)
  have hmode : XWord.tick m sp &&& 0x70000#19 = 1#1 ++ m.code ++ 0#16 :=
    (mask_tick _ _).2 ⟨XWord.tick_kind m sp, XWord.tick_mode m sp⟩
  refine Eq.trans (firstRow_cons_of_not_takes fun h => hkind ((mask_write _).1 h).1)
    (Eq.trans (firstRow_cons_of_not_takes fun h => hkind ((mask_kind _).1 h)) ?_)
  cases m <;> simp [firstRow, OpRow.takes, hmode, tickRow, Instr.mnemonic, Mode.code]

/-- The rows of format K, one for each micro-operation (R96). -/
theorem kRows_eq_map :
    kRows = [.stall, .idle, .emitVh, .emitVoice, .voiceWrapCont, .voiceWrapEnd, .emitVt].map MicroOp.opRow := rfl

/-- Exactly one row of format K takes a key of mode DMR_1K: the one of the micro-operation it selects (R96, R97). -/
theorem kRows_filter_takes (k : Key) (hm : k.mode = 0b10#2) : (kRows.filter fun r => r.takes k) = [k.row.opRow] := by
  have htakes : ∀ m : MicroOp, m.opRow.takes k = decide (k.row = m) := fun m => by
    rw [Bool.eq_iff_iff, OpRow.takes_iff, m.opRow_takes_iff_row, decide_eq_true_iff]
    exact and_iff_right hm
  rw [kRows_eq_map, List.filter_map]
  simp only [Function.comp_def, htakes]
  cases k.row <;> rfl

/-- A micro-operation's row carries the mnemonic of its instruction. -/
theorem MicroOp.opRow_mnemonic (m : MicroOp) (f : FsmState) (q t : Bool) :
    m.opRow.mnemonic = (m.toInstr f q t).mnemonic := by
  cases m <;> rfl

/-- Settles O21: a word by its kind, a key of mode DMR_1K by its micro-operation, any other key by the decoder's test. -/
theorem decodingFollowsTheOpcodeMap : Obligations.DecodingFollowsTheOpcodeMap := by
  refine ⟨fun w => ⟨_, rfl, ?_⟩, fun k hm => ⟨_, (decode_key_eq_ok_iff k _).2 ⟨hm, rfl⟩, ?_⟩, fun k hm => if_neg hm⟩
  · rcases XWord.command_or_tick w with ⟨m, len, d0, rfl⟩ | ⟨m, sp, rfl⟩
    · rw [decodeTxn_command, firstRow_command]
    · rw [decodeTxn_tick, firstRow_tick]
  · rw [kRows_filter_takes k hm, List.map_singleton, MicroOp.opRow_mnemonic]

/-- Settles O22: each word by its own field layout, each line by the script's expansion. -/
theorem exampleWordsDecode : Obligations.ExampleWordsDecode := by
  unfold Obligations.ExampleWordsDecode
  decide

end Sys2Proof

namespace Sys2Proof.Machine

/-! ### Any number of assemblies (40_assembler.md section 1) -/

/-- What one ASSEMBLE keeps of a frame, any list of them keeps. -/
theorem foldl_patch_keeps {α : Type} (g : Frame → α) (p : Params) (hg : ∀ n b, g (patch p n b) = g b)
    (ns : List (Fin 6)) (b : Frame) : g (ns.foldl (fun b n => patch p n b) b) = g b := by
  induction ns generalizing b with
  | nil => rfl
  | cons n ns ih => rw [List.foldl_cons, ih, hg]

/-- Settles O16: a masked merge keeps the bits outside its mask. -/
theorem nibblesStayIsolated : Obligations.NibblesStayIsolated := fun p ns b =>
  ⟨foldl_patch_keeps (fun b => b[14] &&& ~~~p.m14) p (fun n b => by simp only [patch_14, mergeMasked_keep]) ns b,
    foldl_patch_keeps (fun b => b[20] &&& ~~~p.m20) p (fun n b => by simp only [patch_20, mergeMasked_keep]) ns b⟩

/-- Settles O17: ASSEMBLE writes no byte outside the patch region. -/
theorem outsideThePatchRegionIsKept : Obligations.OutsideThePatchRegionIsKept := fun p ns b i hi =>
  foldl_patch_keeps (fun b => b[i]) p (fun n b => patch_outside p n b i i.isLt hi) ns b

/-- A frame is fixed by its bytes outside offsets 14..20, by bytes 14 and 20, and by bytes 15..19. -/
theorem frame_ext {a b : Frame}
    (hout : ∀ (i : Nat) (hi : i < Config.frameBytes), i < 14 ∨ 20 < i → a[i] = b[i])
    (h14 : a[14] = b[14]) (h20 : a[20] = b[20])
    (hmid : ∀ (i : Nat) (hi : i < Config.frameBytes), 15 ≤ i ∧ i ≤ 19 → a[i] = b[i]) : a = b := by
  refine Vector.ext fun i hi => ?_
  by_cases ho : i < 14 ∨ 20 < i
  · exact hout i hi ho
  by_cases hm : 15 ≤ i ∧ i ≤ 19
  · exact hmid i hi hm
  have hedge : i = 14 ∨ i = 20 := by omega
  rcases hedge with rfl | rfl
  · exact h14
  · exact h20

/-- From a buffer that holds the template where ASSEMBLE never writes, ASSEMBLE(n) gives VOICE_FRAME(n) (R123). -/
theorem patch_eq_voiceFrame {p : Params} {b : Frame} (hb : FromTemplate p b) (n : Fin 6) :
    patch p n b = voiceFrame p n := by
  obtain ⟨hout, hkeep14, hkeep20⟩ := hb
  refine frame_ext (fun i hi ho => ?_) ?_ ?_ (fun i hi hm => ?_)
  · have h14 : i ≠ 14 := by omega
    have h20 : i ≠ 20 := by omega
    have hmid : ¬ (15 ≤ i ∧ i ≤ 19) := by omega
    rw [patch_outside p n b i hi ho]
    simpa [voiceFrame, h14, h20, hmid] using hout ⟨i, hi⟩ ho
  · rw [patch_14, mergeMasked_congr hkeep14]
    simp [voiceFrame]
  · rw [patch_20, mergeMasked_congr hkeep20]
    simp [voiceFrame]
  · have h14 : i ≠ 14 := by omega
    rw [patch_mid p n b i hi hm]
    simp [voiceFrame, h14, hm]

/-- Any list of assemblies keeps the template where ASSEMBLE never writes. -/
theorem foldl_patch_fromTemplate {p : Params} {b : Frame} (hb : FromTemplate p b) (ns : List (Fin 6)) :
    FromTemplate p (ns.foldl (fun b n => patch p n b) b) := by
  induction ns generalizing b with
  | nil => exact hb
  | cons n ns ih => exact ih (patch_fromTemplate p n hb)

/-- Settles O18: the earlier calls keep the template's bits, and the last one gives the closed form. -/
theorem assembleGivesVoiceFrame : Obligations.AssembleGivesVoiceFrame := fun p ns n =>
  patch_eq_voiceFrame (foldl_patch_fromTemplate (fromTemplate_toneRom p) ns) n

/-- A masked merge depends on the source only through the bits under the mask. -/
theorem mergeMasked_congr_src {m e e' : Byte} (h : e &&& m = e' &&& m) (dst : Byte) :
    mergeMasked m dst e = mergeMasked m dst e' := by
  rw [mergeMasked, mergeMasked, h]

/-- Settles O19: byte by byte, each byte reading only the entry bits that the two tables share. -/
theorem maskedOutEntryBitsAreNeverRead : Obligations.MaskedOutEntryBitsAreNeverRead := by
  intro p q n b hm14 hm20 h0 hmid h6
  refine frame_ext (fun i hi ho => ?_) ?_ ?_ (fun i hi hi' => ?_)
  · rw [patch_outside p n b i hi ho, patch_outside q n b i hi ho]
  · rw [patch_14, patch_14, mergeMasked_congr_src h0, hm14]
  · rw [patch_20, patch_20, mergeMasked_congr_src h6, hm20]
  · rw [patch_mid p n b i hi hi', patch_mid q n b i hi hi']
    exact hmid _ (by simp only; omega) (by simp only; omega)

end Sys2Proof.Machine

namespace Sys2Proof.Machine

/-! ### A DMR_1K tick with space, in closed form (41_sequencer.md section 1) -/

/-- `fsm_state` after a DMR_1K tick with space (41_sequencer.md R140). -/
def State.drivenFsm (s : State) : FsmState :=
  match s.fsmState with
  | .idle => .idle
  | .vh => .voice
  | .voice => if s.audioSeq = 5 ∧ s.te = false then .vt else .voice
  | .vt => .idle

/-- `audio_seq` after a DMR_1K tick with space: in VOICE the next position, 5 going to 0. -/
def State.drivenSeq (s : State) : Fin 6 := if s.fsmState = .voice then s.audioSeq + 1 else s.audioSeq

/-- `voice_buf` after a DMR_1K tick with space: in VOICE patched with the entry of the present position. -/
def State.drivenBuf (s : State) (p : Params) : Frame :=
  if s.fsmState = .voice then patch p s.audioSeq s.voiceBuf else s.voiceBuf

/-- The frames of a DMR_1K tick with space: one, but for IDLE. -/
def State.drivenFrames (s : State) (p : Params) : List Frame :=
  match s.fsmState with
  | .idle => []
  | .vh => [p.vhRom]
  | .voice => [patch p s.audioSeq s.voiceBuf]
  | .vt => [p.vtRom]

/-- The state after a DMR_1K tick with space. -/
def State.driven (s : State) (p : Params) : State :=
  { s with
    fsmState := s.drivenFsm
    audioSeq := s.drivenSeq
    voiceBuf := s.drivenBuf p
    trace := s.trace ++ (s.drivenFrames p).map fun f => .frameOut f Config.frameBytes }

section
variable (s : State) (p : Params)

@[simp] theorem State.driven_fsmState : (s.driven p).fsmState = s.drivenFsm := rfl
@[simp] theorem State.driven_audioSeq : (s.driven p).audioSeq = s.drivenSeq := rfl
@[simp] theorem State.driven_te : (s.driven p).te = s.te := rfl
@[simp] theorem State.driven_voiceBuf : (s.driven p).voiceBuf = s.drivenBuf p := rfl
@[simp] theorem State.driven_diagCounter : (s.driven p).diagCounter = s.diagCounter := rfl
@[simp] theorem State.driven_trace :
    (s.driven p).trace = s.trace ++ (s.drivenFrames p).map fun f => .frameOut f Config.frameBytes := rfl
@[simp] theorem State.driven_inbox : (s.driven p).inbox = s.inbox := rfl
@[simp] theorem State.driven_intReads : (s.driven p).intReads = s.intReads := rfl

end

section
variable {s : State} (p : Params)

theorem State.driven_of_idle (hf : s.fsmState = .idle) : s.driven p = s := by
  apply State.eq_of_fields <;> simp [State.drivenFsm, State.drivenSeq, State.drivenBuf, State.drivenFrames, hf]

theorem State.driven_of_vh (hf : s.fsmState = .vh) : s.driven p = emitVhRow p s := by
  apply State.eq_of_fields <;>
    simp [emitVhRow, State.drivenFsm, State.drivenSeq, State.drivenBuf, State.drivenFrames, hf]

/-- Below position 5 the run goes on at the next position, whatever `te` is. -/
theorem State.driven_of_voice_lt (hf : s.fsmState = .voice) (h : s.audioSeq.val < 5) :
    s.driven p = (s.sendVoice p s.audioSeq).setAudioSeq ⟨s.audioSeq.val + 1, by omega⟩ := by
  have h5 : s.audioSeq ≠ 5 := by rintro h5; simp [h5] at h
  have hnext : s.audioSeq + 1 = ⟨s.audioSeq.val + 1, by omega⟩ := Fin.ext (by simp [Fin.val_add]; omega)
  apply State.eq_of_fields <;>
    simp [State.drivenFsm, State.drivenSeq, State.drivenBuf, State.drivenFrames, hf, h5, hnext]

theorem State.driven_of_voice_five_set (hf : s.fsmState = .voice) (h5 : s.audioSeq = 5) (ht : s.te = true) :
    s.driven p = wrapContRow p s := by
  apply State.eq_of_fields <;>
    simp [wrapContRow, State.drivenFsm, State.drivenSeq, State.drivenBuf, State.drivenFrames, hf, h5, ht]

theorem State.driven_of_voice_five_clear (hf : s.fsmState = .voice) (h5 : s.audioSeq = 5) (ht : s.te = false) :
    s.driven p = wrapEndRow p s := by
  apply State.eq_of_fields <;>
    simp [wrapEndRow, State.drivenFsm, State.drivenSeq, State.drivenBuf, State.drivenFrames, hf, h5, ht]

theorem State.driven_of_vt (hf : s.fsmState = .vt) : s.driven p = emitVtRow p s := by
  apply State.eq_of_fields <;>
    simp [emitVtRow, State.drivenFsm, State.drivenSeq, State.drivenBuf, State.drivenFrames, hf]

end

/-- What FSM_STEP does from every state (41_sequencer.md R141 to R148). -/
theorem fsmStep_eq (p : Params) (sp : Space) (s : State) :
    fsmStep p sp s = .next (if spaceOk p sp = true then s.driven p else s) := by
  rcases fsmStep_cases s p sp with ⟨ho, e⟩ | ⟨ho, hf, e⟩ | ⟨ho, hf, e⟩ | ⟨ho, hf, hlt, e⟩ |
    ⟨ho, hf, h5, ht, e⟩ | ⟨ho, hf, h5, ht, e⟩ | ⟨ho, hf, e⟩
  · rw [e, if_neg (by simp [ho])]
  · rw [e, if_pos ho, State.driven_of_idle p hf]
  · rw [e, if_pos ho, State.driven_of_vh p hf]
  · rw [e, if_pos ho, State.driven_of_voice_lt p hf hlt]
  · rw [e, if_pos ho, State.driven_of_voice_five_set p hf h5 ht]
  · rw [e, if_pos ho, State.driven_of_voice_five_clear p hf h5 ht]
  · rw [e, if_pos ho, State.driven_of_vt p hf]

theorem spaceOk_hw_iff (sp : Space) : spaceOk hw sp = true ↔ 1#16 ≤ sp := decide_eq_true_iff

theorem exec_tickDmr1k_of_space {sp : Space} (h : 1#16 ≤ sp) (s : State) :
    exec (.tickDmr1k sp) s = .next (s.driven hw) := by
  rw [exec_tickDmr1k, fsmStep_eq, if_pos ((spaceOk_hw_iff sp).2 h)]

theorem exec_tickDmr1k_of_no_space {sp : Space} (h : ¬ 1#16 ≤ sp) (s : State) :
    exec (.tickDmr1k sp) s = .next s := by
  rw [exec_tickDmr1k, fsmStep_eq, if_neg (mt (spaceOk_hw_iff sp).1 h)]

/-- Settles O7: without space the state itself, with space the closed form, its frames by `fsm_state`. -/
theorem tickDmr1kCompletes : Obligations.TickDmr1kCompletes := by
  intro sp s
  by_cases hsp : 1#16 ≤ sp
  · refine ⟨_, exec_tickDmr1k_of_space hsp s, ?_⟩
    cases hf : s.fsmState <;>
      simp [hsp, hf, State.drivenFsm, State.drivenSeq, State.drivenBuf, State.drivenFrames, patch_hw_assembledFrom]
  · exact ⟨_, exec_tickDmr1k_of_no_space hsp s, by simp [hsp]⟩

/-- Settles O43: of the space the closed form reads the one comparison, and the other ticks ignore it. -/
theorem spaceIsReadOnlyAgainstOne : Obligations.SpaceIsReadOnlyAgainstOne := by
  refine fun a b s => ⟨fun hab => ?_, rfl, rfl, rfl⟩
  by_cases ha : 1#16 ≤ a
  · rw [exec_tickDmr1k_of_space ha, exec_tickDmr1k_of_space (hab.1 ha)]
  · rw [exec_tickDmr1k_of_no_space ha, exec_tickDmr1k_of_no_space (mt hab.2 ha)]

/-! ### The micro-operations at the wrap -/

/-- Settles O11: the row completes below position 5 and has no successor at it. -/
theorem emitVoiceRefusesPastFour : Obligations.EmitVoiceRefusesPastFour := by
  intro te s
  have hrow : exec (.fsmEmitVoice te) s = emitVoiceRow hw s := exec_toInstr .emitVoice .voice false te s
  constructor
  · intro h
    by_contra h5
    rw [hrow, emitVoiceRow_of_lt s hw (by omega)] at h
    cases h
  · intro h5
    rw [hrow, emitVoiceRow, h5, nextPosition_five]

/-- Settles O12: the keys by the row's mask, and the row sends position 5 and wraps. -/
theorem wrapContSendsFiveAndWraps : Obligations.WrapContSendsFiveAndWraps := by
  refine ⟨fun k => ?_, fun s => ?_⟩
  · exact (MicroOp.voiceWrapCont.opRow_takes_iff_decodes k).trans (by simp only [MicroOp.toInstr, exists_const])
  · exact ⟨wrapContRow hw s, exec_toInstr .voiceWrapCont .voice true true s, patch_hw_assembledFrom 5 s.voiceBuf,
      rfl, rfl, rfl, rfl, rfl, rfl, rfl⟩

/-- Settles O13: the keys by the row's mask, and the row sends position 5, wraps and goes to VT. -/
theorem wrapEndSendsFiveAndGoesToVt : Obligations.WrapEndSendsFiveAndGoesToVt := by
  refine ⟨fun k => ?_, fun s => ?_⟩
  · exact (MicroOp.voiceWrapEnd.opRow_takes_iff_decodes k).trans (by simp only [MicroOp.toInstr, exists_const])
  · exact ⟨wrapEndRow hw s, exec_toInstr .voiceWrapEnd .voice true false s, patch_hw_assembledFrom 5 s.voiceBuf,
      rfl, rfl, rfl, rfl, rfl, rfl, rfl⟩

/-! ### The diagnostic tick -/

/-- The log line by the shift selector (42_dispatcher.md R173). -/
theorem diagLine_eq (sel : ShiftSel) (c : IntCount × IntCount) :
    diagLine sel c = if sel = .first then .diagLog (c.1 >>> 1) c.2 else .diagLog c.1 (c.2 >>> 1) := by
  cases sel <;> rfl

/-- Settles O5: the words by the row's mask, and the branch by the comparison of the incremented counter. -/
theorem tickIntdiagCountsAndLogs : Obligations.TickIntdiagCountsAndLogs := by
  refine ⟨fun w => mask_tick_iff_decodes w .intDiag, fun sp s => ?_⟩
  rw [exec_tickIntdiag]
  rcases intDiagTick_cases s hw with ⟨h, e⟩ | ⟨h, e⟩
  · exact congrArg Host.Outcome.next (e.trans (if_pos h).symm)
  · rw [diagLine_eq] at e
    exact congrArg Host.Outcome.next (e.trans (if_neg (Nat.not_lt.2 h)).symm)

end Sys2Proof.Machine

namespace Sys2Proof

/-! ### The instructions by kind -/

/-- Every instruction is a command of one of the two kinds, a tick, or a micro-operation with some key bits (R96). -/
theorem instr_cases (i : Instr) :
    (∃ m d0, i = .write m d0) ∨ (∃ m len d0, i = .writeBadlen m len d0) ∨ (∃ m sp, i = tickRow m sp) ∨
      ∃ (m : MicroOp) (f : FsmState) (q t : Bool), i = m.toInstr f q t := by
  cases i with
  | write m d0 => exact .inl ⟨m, d0, rfl⟩
  | writeBadlen m len d0 => exact .inr (.inl ⟨m, len, d0, rfl⟩)
  | tickOther sp => exact .inr (.inr (.inl ⟨.other, sp, rfl⟩))
  | tickFullcal sp => exact .inr (.inr (.inl ⟨.fullCal, sp, rfl⟩))
  | tickDmr1k sp => exact .inr (.inr (.inl ⟨.dmr1k, sp, rfl⟩))
  | tickIntdiag sp => exact .inr (.inr (.inl ⟨.intDiag, sp, rfl⟩))
  | fsmStall f q t => exact .inr (.inr (.inr ⟨.stall, f, q, t, rfl⟩))
  | fsmIdle q t => exact .inr (.inr (.inr ⟨.idle, .idle, q, t, rfl⟩))
  | fsmEmitVh q t => exact .inr (.inr (.inr ⟨.emitVh, .vh, q, t, rfl⟩))
  | fsmEmitVoice t => exact .inr (.inr (.inr ⟨.emitVoice, .voice, false, t, rfl⟩))
  | fsmVoiceWrapCont => exact .inr (.inr (.inr ⟨.voiceWrapCont, .voice, true, true, rfl⟩))
  | fsmVoiceWrapEnd => exact .inr (.inr (.inr ⟨.voiceWrapEnd, .voice, true, false, rfl⟩))
  | fsmEmitVt q t => exact .inr (.inr (.inr ⟨.emitVt, .vt, q, t, rfl⟩))

/-- The micro-operations that patch `voice_buf` (41_sequencer.md R145 to R147). -/
def MicroOp.sendsVoice (m : MicroOp) : Bool :=
  match m with
  | .emitVoice | .voiceWrapCont | .voiceWrapEnd => true
  | .stall | .idle | .emitVh | .emitVt => false

/-- A voice row's instruction is one of the three (R96). -/
theorem MicroOp.toInstr_of_sendsVoice {m : MicroOp} (hm : m.sendsVoice = true) (f : FsmState) (q t : Bool) :
    (∃ te, m.toInstr f q t = .fsmEmitVoice te) ∨ m.toInstr f q t = .fsmVoiceWrapCont ∨
      m.toInstr f q t = .fsmVoiceWrapEnd := by
  cases m with
  | stall | idle | emitVh | emitVt => cases hm
  | emitVoice => exact .inl ⟨t, rfl⟩
  | voiceWrapCont => exact .inr (.inl rfl)
  | voiceWrapEnd => exact .inr (.inr rfl)

end Sys2Proof

namespace Sys2Proof.Machine

/-! ### What an instruction performed by itself can write -/

/-- What a micro-operation keeps: `te`, `diag_counter`, and `voice_buf` but for one ASSEMBLE of a voice row. -/
theorem performRow_keeps {p : Params} {m : MicroOp} {s t : State} (h : performRow p m s = .next t) :
    t.te = s.te ∧ t.diagCounter = s.diagCounter ∧
      (t.voiceBuf = s.voiceBuf ∨ m.sendsVoice = true ∧ ∃ n, t.voiceBuf = patch p n s.voiceBuf) := by
  cases m with
  | stall | idle | emitVh | emitVt =>
    cases h
    exact ⟨rfl, rfl, .inl rfl⟩
  | voiceWrapCont | voiceWrapEnd =>
    cases h
    exact ⟨rfl, rfl, .inr ⟨rfl, 5, rfl⟩⟩
  | emitVoice =>
    rw [performRow, emitVoiceRow] at h
    split at h <;> cases h
    exact ⟨rfl, rfl, .inr ⟨rfl, _, rfl⟩⟩

/-- Settles O32: the closed form of WRITE, and every other instruction keeps `te`. -/
theorem onlyWriteWritesEnable : Obligations.OnlyWriteWritesEnable := by
  intro i s t h hte
  rcases instr_cases i with ⟨m, d0, rfl⟩ | ⟨m, len, d0, rfl⟩ | ⟨m, sp, rfl⟩ | ⟨m, f, q, e, rfl⟩
  · rw [exec_write, writeCommand_hw] at h
    cases h
    exact ⟨m, d0, rfl, rfl⟩
  · cases h
    exact absurd rfl hte
  · obtain ⟨t', h', hkeeps⟩ := exec_tickRow_keeps m sp s
    cases h'.symm.trans h
    exact absurd hkeeps.te hte
  · rw [exec_toInstr] at h
    exact absurd (performRow_keeps h).1 hte

/-- What a tick keeps: `diag_counter` but for INT_DIAG, and `voice_buf` but for the one ASSEMBLE of a DMR_1K tick with
space in VOICE. -/
theorem exec_tickRow_writes {m : Mode} {sp : Space} {s t : State} (h : exec (tickRow m sp) s = .next t) :
    (m = .intDiag ∨ t.diagCounter = s.diagCounter) ∧
      (t.voiceBuf = s.voiceBuf ∨
        (m = .dmr1k ∧ s.fsmState = .voice ∧ 1#16 ≤ sp) ∧ t.voiceBuf = patch hw s.audioSeq s.voiceBuf) := by
  cases m with
  | other =>
    cases h
    exact ⟨.inr rfl, .inl rfl⟩
  | fullCal =>
    rw [tickRow, exec_tickFullcal, fullCalTick_eq] at h
    cases h
    exact ⟨.inr rfl, .inl rfl⟩
  | intDiag =>
    refine ⟨.inl rfl, .inl ?_⟩
    rw [tickRow, exec_tickIntdiag] at h
    rcases intDiagTick_cases s hw with ⟨_, e⟩ | ⟨_, e⟩ <;> rw [e] at h <;> cases h <;> rfl
  | dmr1k =>
    rw [tickRow] at h
    by_cases hsp : 1#16 ≤ sp
    · cases (exec_tickDmr1k_of_space hsp s).symm.trans h
      refine ⟨.inr rfl, ?_⟩
      by_cases hf : s.fsmState = .voice
      · exact .inr ⟨⟨rfl, hf, hsp⟩, if_pos hf⟩
      · exact .inl (if_neg hf)
    · cases (exec_tickDmr1k_of_no_space hsp s).symm.trans h
      exact ⟨.inr rfl, .inl rfl⟩

/-- Settles O34: commands and micro-operations keep the counter, and so do the ticks of the other three modes. -/
theorem onlyIntdiagWritesTheCounter : Obligations.OnlyIntdiagWritesTheCounter := by
  intro i s t h hdiag
  rcases instr_cases i with ⟨m, d0, rfl⟩ | ⟨m, len, d0, rfl⟩ | ⟨m, sp, rfl⟩ | ⟨m, f, q, e, rfl⟩
  · rw [exec_write, writeCommand_hw] at h
    cases h
    exact absurd rfl hdiag
  · cases h
    exact absurd rfl hdiag
  · obtain rfl := (exec_tickRow_writes h).1.resolve_right hdiag
    exact ⟨sp, rfl⟩
  · rw [exec_toInstr] at h
    exact absurd (performRow_keeps h).2.1 hdiag

/-- An instruction keeps `voice_buf`, or it is a voice row or a DMR_1K tick that performs one and ASSEMBLEs once. -/
theorem exec_voiceBuf {i : Instr} {s t : State} (h : exec i s = .next t) :
    t.voiceBuf = s.voiceBuf ∨
      ((∃ sp, i = .tickDmr1k sp ∧ s.fsmState = .voice ∧ 1#16 ≤ sp) ∨ (∃ te, i = .fsmEmitVoice te) ∨
        i = .fsmVoiceWrapCont ∨ i = .fsmVoiceWrapEnd) ∧ ∃ n, t.voiceBuf = patch hw n s.voiceBuf := by
  rcases instr_cases i with ⟨m, d0, rfl⟩ | ⟨m, len, d0, rfl⟩ | ⟨m, sp, rfl⟩ | ⟨m, f, q, e, rfl⟩
  · rw [exec_write, writeCommand_hw] at h
    cases h
    exact .inl rfl
  · cases h
    exact .inl rfl
  · rcases (exec_tickRow_writes h).2 with hbuf | ⟨⟨rfl, hf, hsp⟩, hbuf⟩
    · exact .inl hbuf
    · exact .inr ⟨.inl ⟨sp, rfl, hf, hsp⟩, _, hbuf⟩
  · rw [exec_toInstr] at h
    rcases (performRow_keeps h).2.2 with hbuf | ⟨hm, hbuf⟩
    · exact .inl hbuf
    · exact .inr ⟨.inr (m.toInstr_of_sendsVoice hm f q e), hbuf⟩

/-- Settles O33: the one ASSEMBLE of a voice row writes no byte outside the patch region. -/
theorem onlyVoiceRowsWriteTheBuffer : Obligations.OnlyVoiceRowsWriteTheBuffer := by
  intro i s t h
  rcases exec_voiceBuf h with hbuf | ⟨hrow, n, hbuf⟩
  · exact ⟨fun j _ => by rw [hbuf], fun hne => absurd hbuf hne⟩
  · refine ⟨fun j hj => ?_, fun _ => hrow⟩
    rw [hbuf]
    exact patch_outside hw n s.voiceBuf j j.isLt hj

end Sys2Proof.Machine

namespace Sys2Proof.Machine

/-! ### What one input does, as a function, and the step that performs it -/

/-- What performing one input does to the state, the pending list apart (00_scope.md R3). -/
def Input.effect (i : Input) (s : State) : State :=
  match i with
  | .reset => s.applyReset
  | .txn w =>
    match decodeTxn w with
    | .write m d0 => writeCommand hw m d0 s
    | .writeBadlen _ _ _ => s.emit (.status statusBadlen)
    | .tickFullcal _ => fullCalTick s
    | .tickDmr1k sp => if spaceOk hw sp = true then s.driven hw else s
    | .tickIntdiag _ => intDiagTick hw s
    | .tickOther _ | .fsmStall _ _ _ | .fsmIdle _ _ | .fsmEmitVh _ _ | .fsmEmitVoice _ | .fsmVoiceWrapCont
    | .fsmVoiceWrapEnd | .fsmEmitVt _ _ => s

/-- The state after a step: the oldest pending input taken and performed. -/
def State.after (s : State) : State :=
  match s.inbox with
  | [] => s
  | i :: rest => i.effect (s.setInbox rest)

/-- Every input is a reset, a command of length 1 or of another length, or a tick of one of the four modes. -/
theorem Input.byKind {motive : Input → Prop} (reset : motive .reset)
    (write : ∀ m d0, motive (.txn (XWord.command m 0x01#8 d0)))
    (badlen : ∀ m len d0, len ≠ 0x01#8 → motive (.txn (XWord.command m len d0)))
    (tickOther : ∀ sp, motive (.txn (XWord.tick .other sp)))
    (tickFullcal : ∀ sp, motive (.txn (XWord.tick .fullCal sp)))
    (tickDmr1k : ∀ sp, motive (.txn (XWord.tick .dmr1k sp)))
    (tickIntdiag : ∀ sp, motive (.txn (XWord.tick .intDiag sp))) (i : Input) : motive i := by
  rcases i with w | _
  · rcases XWord.command_or_tick w with ⟨m, len, d0, rfl⟩ | ⟨m, sp, rfl⟩
    · by_cases hl : len = 0x01#8
      · exact hl ▸ write m d0
      · exact badlen m len d0 hl
    · cases m with
      | other => exact tickOther sp
      | fullCal => exact tickFullcal sp
      | dmr1k => exact tickDmr1k sp
      | intDiag => exact tickIntdiag sp
  · exact reset

section
variable (m : Mode) (len d0 : Byte) (sp : Space) (s : State) (p : Params)

@[simp] theorem Input.effect_reset : Input.reset.effect s = s.applyReset := rfl

@[simp] theorem Input.effect_write :
    (Input.txn (XWord.command m 0x01#8 d0)).effect s = writeCommand hw m d0 s := by
  simp [Input.effect, commandRow]

theorem Input.effect_badlen (hl : len ≠ 0x01#8) :
    (Input.txn (XWord.command m len d0)).effect s = s.emit (.status statusBadlen) := by
  simp [Input.effect, commandRow, hl]

@[simp] theorem Input.effect_tickOther : (Input.txn (XWord.tick .other sp)).effect s = s := by
  simp [Input.effect, tickRow]

@[simp] theorem Input.effect_tickFullcal :
    (Input.txn (XWord.tick .fullCal sp)).effect s = fullCalTick s := by
  simp [Input.effect, tickRow]

@[simp] theorem Input.effect_tickDmr1k :
    (Input.txn (XWord.tick .dmr1k sp)).effect s = if spaceOk hw sp = true then s.driven hw else s := by
  simp [Input.effect, tickRow]

@[simp] theorem Input.effect_tickIntdiag :
    (Input.txn (XWord.tick .intDiag sp)).effect s = intDiagTick hw s := by
  simp [Input.effect, tickRow]

/-- No command drives the sequencer: `drives` asks for a DMR_1K tick. -/
@[simp] theorem Input.drives_command : (Input.txn (XWord.command m len d0)).drives p = false := by
  rw [Input.drives, decodeTxn_command]
  by_cases hl : len = 0x01#8
  · rw [hl, commandRow_len_one]
  · rw [commandRow_of_len_ne_one m d0 hl]

@[simp] theorem Input.drives_tick :
    (Input.txn (XWord.tick m sp)).drives p = (decide (m = .dmr1k) && spaceOk p sp) := by
  cases m <;> simp [Input.drives, tickRow]

@[simp] theorem Input.drives_reset : Input.reset.drives p = false := rfl

@[simp] theorem Input.enables_write :
    (Input.txn (XWord.command m 0x01#8 d0)).enables = decide (d0 = 0x01#8) := by
  rw [Input.enables, decodeTxn_command, commandRow_len_one]
  rfl

/-- The inputs that drive the sequencer are the DMR_1K ticks with space (41_sequencer.md R154). -/
theorem Input.drives_iff (i : Input) :
    i.drives p = true ↔ ∃ sp, i = .txn (XWord.tick .dmr1k sp) ∧ spaceOk p sp = true := by
  constructor
  · intro h
    rcases i with w | _
    · rcases XWord.command_or_tick w with ⟨m, len, d0, rfl⟩ | ⟨m, sp, rfl⟩
      · rw [Input.drives_command] at h
        cases h
      · rw [Input.drives_tick, Bool.and_eq_true, decide_eq_true_iff] at h
        obtain ⟨rfl, hsp⟩ := h
        exact ⟨sp, rfl, hsp⟩
    · cases h
  · rintro ⟨sp, rfl, hsp⟩
    simpa using hsp

end

/-- A driving input performed is the closed form of the DMR_1K tick. -/
theorem Input.effect_of_drives {i : Input} (h : i.drives hw = true) (s : State) : i.effect s = s.driven hw := by
  obtain ⟨sp, rfl, hsp⟩ := (Input.drives_iff hw i).1 h
  rw [Input.effect_tickDmr1k, if_pos hsp]

/-! ### Steps and runs -/

section
variable {s : State} {i : Input} {rest : List Input}

theorem State.after_of_nil (h : s.inbox = []) : s.after = s := by
  rw [State.after, h]

theorem State.after_of_cons (h : s.inbox = i :: rest) : s.after = i.effect (s.setInbox rest) := by
  rw [State.after, h]

/-- A step answers the state after its oldest pending input, whatever the state. -/
theorem step_eq (s : State) : step s = .next s.after := by
  rcases hq : s.inbox with _ | ⟨i, rest⟩
  · rw [step_nil hq, State.after_of_nil hq]
  rw [State.after_of_cons hq]
  induction i using Input.byKind with
  | reset => exact step_reset hq
  | write m d0 => rw [step_command hq, if_pos rfl, Input.effect_write]
  | badlen m len d0 hl => rw [step_command hq, if_neg hl, Input.effect_badlen m len d0 _ hl]
  | tickOther sp => rw [step_tickOther hq, Input.effect_tickOther]
  | tickFullcal sp => rw [step_tickFullcal hq, Input.effect_tickFullcal]
  | tickDmr1k sp => rw [step_tickDmr1k hq, fsmStep_eq, Input.effect_tickDmr1k]
  | tickIntdiag sp => rw [step_tickIntdiag hq, Input.effect_tickIntdiag]

theorem eq_after_of_step {t : State} (h : step s = .next t) : t = s.after := by
  cases (step_eq s).symm.trans h
  rfl

/-- A run of `n` steps completes, and is `n` times the state after a step. -/
theorem run_eq (n : Nat) (s : State) : Host.Core.run core n s = .next (State.after^[n] s) := by
  induction n generalizing s with
  | zero => rfl
  | succ n ih => exact (run_succ core n s s.after (step_eq s)).trans (ih s.after)

theorem eq_iterate_of_run {n : Nat} {t : State} (h : Host.Core.run core n s = .next t) : t = State.after^[n] s := by
  cases (run_eq n s).symm.trans h
  rfl

/-- What holds at first and is kept by every step from a state that is not yet `stop` holds when `stop` is first
reached. -/
theorem iterate_after_induction {P stop : State → Prop} (hkeep : ∀ u, P u → ¬ stop u → P u.after) (h0 : P s) :
    ∀ n, (∀ j < n, ¬ stop (State.after^[j] s)) → P (State.after^[n] s)
  | 0, _ => h0
  | n + 1, hfirst => by
    rw [Function.iterate_succ_apply']
    exact hkeep _ (iterate_after_induction hkeep h0 n fun j hj => hfirst j (by omega)) (hfirst n (by omega))

end

/-- Settles O27: the state after the oldest pending input is the answer. -/
theorem everyStepCompletes : Obligations.EveryStepCompletes := fun s => ⟨s.after, step_eq s⟩

/-- Settles O25: the step's first arm. -/
theorem stepWithNothingPendingKeepsState : Obligations.StepWithNothingPendingKeepsState := fun _ h => step_nil h

/-- Settles O26: the reset values, and the reset arm of the step is a write of the five registers. -/
theorem resetWritesEveryRegister : Obligations.ResetWritesEveryRegister :=
  ⟨⟨rfl, rfl, rfl, rfl, fun _ => rfl⟩, fun _ _ h => ⟨Config.toneRom, fun _ => rfl, step_reset h⟩⟩

/-- Settles O23: the decoder is total on words, and its rows are well-formed. -/
theorem stepPerformsTheDecodedWord : Obligations.StepPerformsTheDecodedWord :=
  fun _ w _ h => ⟨decodeTxn w, rfl, (encode_decodeTxn w).1, step_txn h⟩

/-! ### A code placed to be performed next (log entries 4 and 9) -/

/-- A table word that decodes is a code that decodes. -/
theorem exists_code_of_decodeTableWord {nbits w : Nat} {i : Instr} (h : decodeTableWord nbits w = some i) :
    ∃ c, codeOfNat nbits w = .ok c ∧ decode c = .ok i := by
  rw [decodeTableWord, decodeNat] at h
  rcases hc : codeOfNat nbits w with r | c
  · rw [hc] at h
    cases h
  · refine ⟨c, rfl, ?_⟩
    rcases hd : decode c with r | j <;> simp_all

/-- The position set up for a key has the key's `seq5`. -/
theorem positionWithSeq5_seq5 (n : Fin 6) (b : Bool) : decide (positionWithSeq5 n b = 5) = b := by
  rw [positionWithSeq5]
  split_ifs with h hb
  · exact h
  · subst hb
    rfl
  · rw [Bool.not_eq_true] at hb
    subst hb
    rfl

theorem spaceOk_hw_of_bit (b : Bool) : spaceOk hw (if b = true then 1#16 else 0#16) = b := by
  cases b <;> rfl

/-- A key set up by `placeKey` is what the next step performs, through the DMR_1K tick that forms it. -/
theorem step_placeKey {k : Key} {i : Instr} (h : decode (.k k) = .ok i) (s : State) :
    step (s.placeKey k) = exec i ((s.placeKey k).setInbox s.inbox) := by
  obtain ⟨-, rfl⟩ := (decode_key_eq_ok_iff k i).1 h
  have hinbox : (s.placeKey k).inbox =
      .txn (XWord.tick .dmr1k (if k.spaceOk = true then 1#16 else 0#16)) :: s.inbox := rfl
  have hseq : ((s.placeKey k).setInbox s.inbox).seq5 = k.seq5 := positionWithSeq5_seq5 s.audioSeq k.seq5
  rw [step_tickDmr1k hinbox, fsmStep_eq_performRow, exec_toInstr, hseq, spaceOk_hw_of_bit]
  rfl

/-- Settles O24: a word is placed itself, a key through its tick. -/
theorem placedTableWordIsPerformed : Obligations.PlacedTableWordIsPerformed := by
  intro s nbits w i h
  obtain ⟨c, hcode, hdec⟩ := exists_code_of_decodeTableWord h
  have hplace : s.withFetchWord nbits w = s.placeCode c := by
    rw [State.withFetchWord, State.placeNat, hcode]
  rw [hplace]
  cases c with
  | x word =>
    cases hdec
    exact step_txn rfl
  | k key => exact step_placeKey hdec s

/-! ### The trace: what an input appends -/

@[simp] theorem framesOf_map_frameOut (fs : List Frame) (n : Nat) :
    framesOf (fs.map fun f => .frameOut f n) = fs := by
  induction fs with
  | nil => rfl
  | cons f fs ih => exact congrArg (f :: ·) ih

/-- An input only appends to the trace, only records this block can produce, and of frames exactly those of a driving
tick (20_memory.md R78, 10_state.md R39). -/
theorem Input.effect_trace (i : Input) (s : State) :
    ∃ es, (i.effect s).trace = s.trace ++ es ∧ (∀ e ∈ es, e.legal hw = true) ∧
      framesOf es = if i.drives hw = true then s.drivenFrames hw else [] := by
  induction i using Input.byKind with
  | reset => exact ⟨[], (List.append_nil _).symm, by simp, rfl⟩
  | write m d0 =>
    rw [Input.effect_write, writeCommand_hw]
    refine ⟨_, List.append_assoc _ _ _, ?_, ?_⟩ <;>
      split_ifs <;> simp_all [Event.legal, framesOf, Event.frame?]
  | badlen m len d0 hl =>
    rw [Input.effect_badlen m len d0 s hl]
    exact ⟨_, rfl, by simp [Event.legal], by simp [framesOf, Event.frame?]⟩
  | tickOther sp => exact ⟨[], by simp, by simp, by simp⟩
  | tickFullcal sp =>
    rw [Input.effect_tickFullcal, fullCalTick_eq]
    refine ⟨_, rfl, ?_, ?_⟩ <;> cases s.te <;> simp [Event.legal, framesOf, Event.frame?]
  | tickDmr1k sp =>
    by_cases hsp : spaceOk hw sp = true
    · rw [Input.effect_tickDmr1k, if_pos hsp]
      exact ⟨_, rfl, by simp [Event.legal], by simp [hsp]⟩
    · rw [Input.effect_tickDmr1k, if_neg hsp]
      exact ⟨[], by simp, by simp, by simp [hsp]⟩
  | tickIntdiag sp =>
    rw [Input.effect_tickIntdiag]
    rcases intDiagTick_cases s hw with ⟨_, e⟩ | ⟨_, e⟩ <;> rw [e]
    · exact ⟨[], by simp, by simp, by simp⟩
    · refine ⟨_, rfl, ?_, ?_⟩ <;>
        cases hw.diagShiftSel <;> simp [diagLine, Event.legal, framesOf, Event.frame?]

/-- The frames that an input emits. -/
theorem Input.effect_frames (i : Input) (s : State) :
    framesOf (i.effect s).trace = framesOf s.trace ++ if i.drives hw = true then s.drivenFrames hw else [] := by
  obtain ⟨es, htrace, -, hframes⟩ := i.effect_trace s
  rw [htrace, framesOf_append, hframes]

/-- Settles O40: what is appended is legal, and the rest was. -/
theorem traceStaysLegal : Obligations.TraceStaysLegal := by
  intro s t hlegal hs
  obtain rfl := eq_after_of_step hs
  rcases hq : s.inbox with _ | ⟨i, rest⟩
  · rwa [State.after_of_nil hq]
  · obtain ⟨es, htrace, hes, -⟩ := i.effect_trace (s.setInbox rest)
    rw [State.after_of_cons hq, htrace]
    exact fun e he => (List.mem_append.1 he).elim (hlegal e) (hes e)

theorem State.drivenFrames_length_le_one (s : State) (p : Params) : (s.drivenFrames p).length ≤ 1 := by
  rw [State.drivenFrames]
  cases s.fsmState <;> simp

/-- Settles O37: the frames appended are those of a driving tick, at most one. -/
theorem stepAppendsAtMostOneFrame : Obligations.StepAppendsAtMostOneFrame := by
  intro s t hs
  obtain rfl := eq_after_of_step hs
  rcases hq : s.inbox with _ | ⟨i, rest⟩
  · rw [State.after_of_nil hq]
    exact ⟨[], (List.append_nil _).symm, by decide, absurd rfl⟩
  · obtain ⟨es, htrace, -, hframes⟩ := i.effect_trace (s.setInbox rest)
    rw [State.after_of_cons hq]
    refine ⟨es, htrace, ?_⟩
    rw [hframes]
    by_cases hd : i.drives hw = true
    · obtain ⟨sp, rfl, -⟩ := (Input.drives_iff hw i).1 hd
      rw [if_pos hd]
      exact ⟨State.drivenFrames_length_le_one _ _, fun _ => ⟨_, rest, rfl, XWord.tick_kind _ _⟩⟩
    · rw [if_neg hd]
      exact ⟨by decide, absurd rfl⟩

/-! ### The invariants -/

/-- The invariants by what they read: the position outside VOICE, the buffer's template bits, the counter. -/
theorem State.inv_iff (s : State) (p : Params) :
    s.Inv p ↔ (s.fsmState ≠ .voice → s.audioSeq = 0) ∧ FromTemplate p s.voiceBuf ∧
      s.diagCounter.toNat < p.diagThreshold :=
  ⟨fun ⟨hseq, hout, h14, h20, hdiag⟩ => ⟨hseq, ⟨hout, h14, h20⟩, hdiag⟩,
    fun ⟨hseq, ⟨hout, h14, h20⟩, hdiag⟩ => ⟨hseq, hout, h14, h20, hdiag⟩⟩

/-- Settles O28: position 0, the template itself, and a counter of 0 below a positive threshold. -/
theorem invariantsHoldAtReset : Obligations.InvariantsHoldAtReset :=
  (State.inv_iff _ _).2 ⟨fun _ => rfl, fromTemplate_toneRom hw, hw_diagThreshold_pos⟩

/-- A DMR_1K tick with space keeps the invariants: it leaves VOICE only with the position back at 0, and ASSEMBLE
keeps the template's bits. -/
theorem State.Inv.driven {s : State} {p : Params} (h : s.Inv p) : (s.driven p).Inv p := by
  obtain ⟨hseq, hbuf, hdiag⟩ := (s.inv_iff p).1 h
  refine (State.inv_iff _ _).2 ⟨?_, ?_, hdiag⟩
  · cases hf : s.fsmState with
    | idle | vh | vt => simp [State.drivenFsm, State.drivenSeq, hf, hseq]
    | voice =>
      by_cases hwrap : s.audioSeq = 5 ∧ s.te = false
      · simp [State.drivenSeq, hf, hwrap]
      · simp [State.drivenFsm, hf, hwrap]
  · rw [State.driven_voiceBuf, State.drivenBuf]
    split_ifs
    · exact patch_fromTemplate p s.audioSeq hbuf
    · exact hbuf

/-- An INT_DIAG tick leaves the counter below the threshold (10_state.md R35). -/
theorem intDiagTick_diagCounter_lt {p : Params} (hp : 0 < p.diagThreshold) (s : State) :
    (intDiagTick p s).diagCounter.toNat < p.diagThreshold := by
  rcases intDiagTick_cases s p with ⟨h, e⟩ | ⟨_, e⟩ <;> rw [e]
  · exact h
  · exact hp

/-- Performing an input keeps the invariants. -/
theorem State.Inv.effect {s : State} (h : s.Inv hw) (i : Input) : (i.effect s).Inv hw := by
  obtain ⟨hseq, hbuf, hdiag⟩ := (s.inv_iff hw).1 h
  induction i using Input.byKind with
  | reset => exact (State.inv_iff _ _).2 ⟨fun _ => rfl, fromTemplate_toneRom hw, hw_diagThreshold_pos⟩
  | write m d0 =>
    rw [Input.effect_write, writeCommand_hw]
    refine (State.inv_iff _ _).2 ⟨fun hf => hseq fun hv => hf ?_, hbuf, hdiag⟩
    simp [hv]
  | badlen m len d0 hl =>
    rw [Input.effect_badlen m len d0 s hl]
    exact (State.inv_iff _ _).2 ⟨hseq, hbuf, hdiag⟩
  | tickOther sp => rwa [Input.effect_tickOther]
  | tickFullcal sp =>
    rw [Input.effect_tickFullcal, fullCalTick_eq]
    exact (State.inv_iff _ _).2 ⟨hseq, hbuf, hdiag⟩
  | tickDmr1k sp =>
    rw [Input.effect_tickDmr1k]
    split_ifs
    · exact h.driven
    · exact h
  | tickIntdiag sp =>
    rw [Input.effect_tickIntdiag]
    have hcounter := intDiagTick_diagCounter_lt hw_diagThreshold_pos s
    rcases intDiagTick_cases s hw with ⟨_, e⟩ | ⟨_, e⟩ <;> rw [e] at hcounter ⊢ <;>
      exact (State.inv_iff _ _).2 ⟨hseq, hbuf, hcounter⟩

theorem State.Inv.setInbox {s : State} {p : Params} (h : s.Inv p) (q : List Input) : (s.setInbox q).Inv p :=
  (State.inv_iff _ _).2 ((s.inv_iff p).1 h)

theorem State.Inv.after {s : State} (h : s.Inv hw) : s.after.Inv hw := by
  rcases hq : s.inbox with _ | ⟨i, rest⟩
  · rwa [State.after_of_nil hq]
  · rw [State.after_of_cons hq]
    exact (h.setInbox rest).effect i

/-- Settles O29: the step's one answer is the state after its input, which keeps the invariants. -/
theorem stepKeepsInvariants : Obligations.StepKeepsInvariants := by
  intro s t h hs
  obtain rfl := eq_after_of_step hs
  exact h.after

/-- Settles O30: the invariants hold at reset, whatever is pending, and every step keeps them. -/
theorem reachableStatesMeetInvariants : Obligations.ReachableStatesMeetInvariants := by
  intro inputs n t hrun
  obtain rfl := eq_iterate_of_run hrun
  exact iterate_after_induction (P := fun u => u.Inv hw) (stop := fun _ => False) (fun _ h _ => h.after)
    (invariantsHoldAtReset.setInbox inputs) n (fun _ _ => id)

end Sys2Proof.Machine

namespace Sys2Proof.Machine

/-! ### The inputs that do not drive the sequencer -/

/-- A tick of another mode than DMR_1K leaves the sequencer's registers as they were (41_sequencer.md R153). -/
theorem Input.effect_tick_frozen {m : Mode} (hm : m ≠ .dmr1k) (sp : Space) (s : State) :
    ((Input.txn (XWord.tick m sp)).effect s).fsmState = s.fsmState ∧
      ((Input.txn (XWord.tick m sp)).effect s).audioSeq = s.audioSeq ∧
      ((Input.txn (XWord.tick m sp)).effect s).voiceBuf = s.voiceBuf ∧
      ((Input.txn (XWord.tick m sp)).effect s).te = s.te := by
  cases m with
  | other => simp
  | fullCal => simp [fullCalTick_eq]
  | dmr1k => exact absurd rfl hm
  | intDiag =>
    rw [Input.effect_tickIntdiag]
    rcases intDiagTick_cases s hw with ⟨_, e⟩ | ⟨_, e⟩ <;> rw [e] <;> exact ⟨rfl, rfl, rfl, rfl⟩

/-- Settles O35: the registers by the branch, and no frame since only a DMR_1K tick drives. -/
theorem frozenOutsideDmr1k : Obligations.FrozenOutsideDmr1k := by
  intro s t w rest h hk hmode hs
  obtain rfl := eq_after_of_step hs
  rcases XWord.command_or_tick w with ⟨m, len, d0, rfl⟩ | ⟨m, sp, rfl⟩
  · exact absurd (XWord.command_kind m len d0) (kind_ne.2 hk)
  · have hm : m ≠ .dmr1k := fun hm => hmode (by rw [XWord.tick_mode, hm])
    obtain ⟨hfsm, hseq, hbuf, hte⟩ := Input.effect_tick_frozen hm sp (s.setInbox rest)
    have hframes := (Input.txn (XWord.tick m sp)).effect_frames (s.setInbox rest)
    rw [State.after_of_cons h]
    exact ⟨hfsm, hseq, hbuf, hte, by simpa [hm] using hframes⟩

/-- What an input that is neither a reset nor a driving tick does to the sequencer: it moves IDLE at most, and it sets
`te` or arms only if it is an enabling write (43_command.md R192, R193). -/
structure State.UndrivenTo (s t : State) (enables : Bool) : Prop where
  audioSeq : t.audioSeq = s.audioSeq
  fsmState : s.fsmState ≠ .idle → t.fsmState = s.fsmState
  disarmed : enables = false → s.te = false → t.fsmState = s.fsmState ∧ t.te = false

theorem Input.effect_undriven {i : Input} (hr : i ≠ .reset) (hd : i.drives hw = false) (s : State) :
    s.UndrivenTo (i.effect s) i.enables := by
  rcases i with w | _
  · rcases XWord.command_or_tick w with ⟨m, len, d0, rfl⟩ | ⟨m, sp, rfl⟩
    · by_cases hl : len = 0x01#8
      · subst hl
        rw [Input.effect_write, writeCommand_hw, Input.enables_write]
        refine ⟨rfl, fun hf => ?_, fun hne _ => ?_⟩
        · simp [hf]
        · have hne : d0 ≠ 0x01#8 := by simpa using hne
          simp [hne]
      · rw [Input.effect_badlen m len d0 s hl]
        exact ⟨rfl, fun _ => rfl, fun _ ht => ⟨rfl, ht⟩⟩
    · by_cases hm : m = .dmr1k
      · subst hm
        have hsp : spaceOk hw sp = false := by simpa using hd
        rw [Input.effect_tickDmr1k, if_neg (by simp [hsp])]
        exact ⟨rfl, fun _ => rfl, fun _ ht => ⟨rfl, ht⟩⟩
      · obtain ⟨hfsm, hseq, -, hte⟩ := Input.effect_tick_frozen hm sp s
        exact ⟨hseq, fun _ => hfsm, fun _ ht => ⟨hfsm, hte.trans ht⟩⟩
  · exact absurd rfl hr

/-- A transaction that moves `fsm_state` is the arming write in IDLE or drives (41_sequencer.md R140). -/
theorem Input.effect_moves {w : XWord} {s : State} (h : ((Input.txn w).effect s).fsmState ≠ s.fsmState) :
    (s.fsmState = .idle ∧ ((Input.txn w).effect s).fsmState = .vh ∧ w = XWord.command .dmr1k 0x01#8 0x01#8) ∨
      (Input.txn w).drives hw = true := by
  by_cases hd : (Input.txn w).drives hw = true
  · exact .inr hd
  have hund := Input.effect_undriven (i := .txn w) (fun hr => by cases hr) (by simpa using hd) s
  have hidle : s.fsmState = .idle := by
    by_contra hf
    exact h (hund.fsmState hf)
  rcases XWord.command_or_tick w with ⟨m, len, d0, rfl⟩ | ⟨m, sp, rfl⟩
  · by_cases hl : len = 0x01#8
    · subst hl
      rw [Input.effect_write, writeCommand_hw] at h ⊢
      have harm : d0 = 0x01#8 ∧ s.fsmState = .idle ∧ m = .dmr1k := by
        by_contra hc
        exact h (if_neg hc)
      obtain ⟨rfl, -, rfl⟩ := harm
      exact .inl ⟨hidle, if_pos ⟨rfl, hidle, rfl⟩, rfl⟩
    · rw [Input.effect_badlen m len d0 s hl] at h
      exact absurd rfl h
  · have hm : m ≠ .dmr1k := by
      rintro rfl
      rw [Input.effect_tickDmr1k, if_neg (by simpa using hd)] at h
      exact h rfl
    exact absurd (Input.effect_tick_frozen hm sp s).1 h

/-- The moves of a DMR_1K tick with space, as the table lists them (41_sequencer.md R140). -/
theorem State.driven_moves {s : State} {p : Params} (h : (s.driven p).fsmState ≠ s.fsmState) :
    (s.fsmState = .vh ∧ (s.driven p).fsmState = .voice) ∨
      (s.fsmState = .voice ∧ (s.driven p).fsmState = .vt ∧ s.audioSeq = 5 ∧ (s.driven p).audioSeq = 0 ∧
        s.te = false) ∨
      (s.fsmState = .vt ∧ (s.driven p).fsmState = .idle) := by
  cases hf : s.fsmState with
  | idle => exact absurd (by rw [State.driven_of_idle p hf]) h
  | vh => exact .inl ⟨rfl, by simp [State.drivenFsm, hf]⟩
  | voice =>
    have hwrap : s.audioSeq = 5 ∧ s.te = false := by
      by_contra hc
      exact h (by simp only [State.driven_fsmState, State.drivenFsm, hf, if_neg hc])
    exact .inr (.inl ⟨rfl, by simp [State.drivenFsm, hf, hwrap], hwrap.1,
      by simp [State.drivenSeq, hf, hwrap], hwrap.2⟩)
  | vt => exact .inr (.inr ⟨rfl, by simp [State.drivenFsm, hf]⟩)

/-- Settles O36: the arming write, or a driving tick with the moves of its closed form. -/
theorem stateMovesOnlyAlongTheTable : Obligations.StateMovesOnlyAlongTheTable := by
  intro s t w rest h hs hmove
  obtain rfl := eq_after_of_step hs
  rw [State.after_of_cons h] at hmove ⊢
  rcases Input.effect_moves hmove with ⟨hidle, hvh, rfl⟩ | hd
  · exact .inl ⟨hidle, hvh, Laws.RoundTrip.write .dmr1k 0x01#8 rfl⟩
  · obtain ⟨sp, hw', hsp⟩ := (Input.drives_iff hw _).1 hd
    cases hw'
    rw [Input.effect_of_drives hd] at hmove ⊢
    exact .inr ⟨sp, Laws.RoundTrip.tickDmr1k sp rfl, (spaceOk_hw_iff sp).1 hsp,
      State.driven_moves (s := s.setInbox rest) hmove⟩

/-! ### The frames of a step -/

/-- Under the invariants the frame of a voice row is VOICE_FRAME of the present position (40_assembler.md R123). -/
theorem State.Inv.patch_eq_voiceFrame {s : State} {p : Params} (h : s.Inv p) (n : Fin 6) :
    patch p n s.voiceBuf = voiceFrame p n :=
  Machine.patch_eq_voiceFrame ((s.inv_iff p).1 h).2.1 n

/-- The frames that the pair `(fsm_state, audio_seq)` says a driving tick emits (10_state.md R36). -/
def State.pairFrames (s : State) (p : Params) : List Frame :=
  match s.fsmState with
  | .idle => []
  | .vh => [p.vhRom]
  | .voice => [voiceFrame p s.audioSeq]
  | .vt => [p.vtRom]

theorem State.Inv.drivenFrames_eq {s : State} {p : Params} (h : s.Inv p) : s.drivenFrames p = s.pairFrames p := by
  cases hf : s.fsmState <;> simp [State.drivenFrames, State.pairFrames, hf, h.patch_eq_voiceFrame]

/-- The frames of a step: those of a driving tick, if one is the oldest pending input. -/
theorem State.after_frames (s : State) :
    framesOf s.after.trace =
      framesOf s.trace ++ if s.inbox.head?.any (Input.drives hw) = true then s.drivenFrames hw else [] := by
  rcases hq : s.inbox with _ | ⟨i, rest⟩
  · rw [State.after_of_nil hq]
    simp
  · rw [State.after_of_cons hq, Input.effect_frames]
    rfl

theorem State.Inv.after_frames {s : State} (h : s.Inv hw) :
    framesOf s.after.trace =
      framesOf s.trace ++ if s.inbox.head?.any (Input.drives hw) = true then s.pairFrames hw else [] := by
  rw [State.after_frames, h.drivenFrames_eq]

/-- Settles O41: the frames of a driving tick by the pair, the voice frame by the invariants. -/
theorem emittedFrameIsThePairs : Obligations.EmittedFrameIsThePairs := by
  intro s t h hs
  obtain rfl := eq_after_of_step hs
  exact h.after_frames

/-! ### The sequencer reads nothing but its own registers and the inputs (00_scope.md R6) -/

/-- Two states that agree on the sequencer's registers. -/
structure State.SameSequencer (s s' : State) : Prop where
  fsmState : s.fsmState = s'.fsmState
  audioSeq : s.audioSeq = s'.audioSeq
  te : s.te = s'.te
  voiceBuf : s.voiceBuf = s'.voiceBuf

section
variable {s s' : State}

theorem State.SameSequencer.drivenFrames (h : s.SameSequencer s') (p : Params) :
    s.drivenFrames p = s'.drivenFrames p := by
  rw [State.drivenFrames, State.drivenFrames, h.fsmState, h.audioSeq, h.voiceBuf]

theorem State.SameSequencer.driven (h : s.SameSequencer s') (p : Params) :
    (s.driven p).SameSequencer (s'.driven p) := by
  refine ⟨?_, ?_, h.te, ?_⟩
  · simp only [State.driven_fsmState, State.drivenFsm, h.fsmState, h.audioSeq, h.te]
  · simp only [State.driven_audioSeq, State.drivenSeq, h.fsmState, h.audioSeq]
  · simp only [State.driven_voiceBuf, State.drivenBuf, h.fsmState, h.audioSeq, h.voiceBuf]

theorem State.SameSequencer.effect (h : s.SameSequencer s') (i : Input) :
    (i.effect s).SameSequencer (i.effect s') := by
  rcases i with w | _
  · rcases XWord.command_or_tick w with ⟨m, len, d0, rfl⟩ | ⟨m, sp, rfl⟩
    · by_cases hl : len = 0x01#8
      · subst hl
        rw [Input.effect_write, Input.effect_write, writeCommand_hw, writeCommand_hw]
        exact ⟨by simp only [h.fsmState], h.audioSeq, rfl, h.voiceBuf⟩
      · rw [Input.effect_badlen m len d0 s hl, Input.effect_badlen m len d0 s' hl]
        exact ⟨h.fsmState, h.audioSeq, h.te, h.voiceBuf⟩
    · by_cases hm : m = .dmr1k
      · subst hm
        rw [Input.effect_tickDmr1k, Input.effect_tickDmr1k]
        split_ifs
        · exact h.driven hw
        · exact h
      · obtain ⟨hfsm, hseq, hbuf, hte⟩ := Input.effect_tick_frozen hm sp s
        obtain ⟨hfsm', hseq', hbuf', hte'⟩ := Input.effect_tick_frozen hm sp s'
        exact ⟨hfsm.trans (h.fsmState.trans hfsm'.symm), hseq.trans (h.audioSeq.trans hseq'.symm),
          hte.trans (h.te.trans hte'.symm), hbuf.trans (h.voiceBuf.trans hbuf'.symm)⟩
  · exact ⟨rfl, rfl, rfl, rfl⟩

end

/-- Performing an input leaves what is pending after it. -/
@[simp] theorem Input.effect_inbox (i : Input) (s : State) : (i.effect s).inbox = s.inbox := by
  induction i using Input.byKind with
  | reset => rfl
  | write m d0 => rw [Input.effect_write, writeCommand_hw]
  | badlen m len d0 hl => rw [Input.effect_badlen m len d0 s hl, State.emit_inbox]
  | tickOther sp => rw [Input.effect_tickOther]
  | tickFullcal sp => rw [Input.effect_tickFullcal, fullCalTick_eq]
  | tickDmr1k sp =>
    rw [Input.effect_tickDmr1k]
    split_ifs <;> rfl
  | tickIntdiag sp =>
    rw [Input.effect_tickIntdiag]
    rcases intDiagTick_cases s hw with ⟨_, e⟩ | ⟨_, e⟩ <;> rw [e]

/-- Settles O42: the same input keeps the agreement, and its frames read the sequencer's registers alone. -/
theorem contextNeverReachesTheSequencer : Obligations.ContextNeverReachesTheSequencer := by
  intro s s' t t' hfsm hseq hte hbuf hinbox hs hs'
  obtain rfl := eq_after_of_step hs
  obtain rfl := eq_after_of_step hs'
  have hsame : s.SameSequencer s' := ⟨hfsm, hseq, hte, hbuf⟩
  rcases hq : s.inbox with _ | ⟨i, rest⟩
  · rw [State.after_of_nil hq, State.after_of_nil (hinbox ▸ hq)]
    exact ⟨hfsm, hseq, hte, hbuf, hinbox, [], [], by simp, by simp, rfl⟩
  · rw [State.after_of_cons hq, State.after_of_cons (hinbox ▸ hq)]
    have hrest : (s.setInbox rest).SameSequencer (s'.setInbox rest) := ⟨hfsm, hseq, hte, hbuf⟩
    obtain ⟨hfsm, hseq, hte, hbuf⟩ := hrest.effect i
    obtain ⟨es, htrace, -, hframes⟩ := i.effect_trace (s.setInbox rest)
    obtain ⟨es', htrace', -, hframes'⟩ := i.effect_trace (s'.setInbox rest)
    refine ⟨hfsm, hseq, hte, hbuf, by simp, es, es', htrace, htrace', ?_⟩
    rw [hframes, hframes', hrest.drivenFrames hw]

/-! ### The environment's side -/

/-- The length field is 1 exactly for data of one byte (30_encoding.md R92, log entry 25). -/
theorem lenField_eq_one_iff (k : Nat) : lenField k = 0x01#8 ↔ k = 1 := by
  rw [lenField, ← BitVec.toNat_inj, BitVec.toNat_ofNat]
  simp only [BitVec.toNat_ofNat]
  omega

/-- Settles O51: the length field decides, and it is 1 for one byte alone. -/
theorem hostWriteIsDecodedByLength : Obligations.HostWriteIsDecodedByLength := by
  intro s hostMode data hq
  have hinbox : (s.hostWrite hw hostMode data).inbox =
      .txn (XWord.command (Config.modeMap hostMode) (lenField data.length) (data.headD 0#8)) :: [] :=
    congrArg (· ++ _) hq
  have hstate : (s.hostWrite hw hostMode data).setInbox [] = s :=
    State.eq_of_fields rfl rfl rfl rfl rfl rfl hq.symm rfl
  rw [step_command hinbox, hstate]
  constructor
  · rintro d rfl
    exact if_pos rfl
  · intro hlen
    exact if_neg (mt (lenField_eq_one_iff _).1 hlen)

/-- The step of a pending enabling write (43_command.md R192 to R196). -/
theorem State.after_of_arming {s : State} {m : Mode} {rest : List Input}
    (h : s.inbox = .txn (commandWord m [0x01#8]) :: rest) :
    s.after = { s with
      te := true
      fsmState := if s.fsmState = .idle ∧ m = .dmr1k then .vh else s.fsmState
      trace := s.trace ++ [.rfIfConf hw.rfDmrTag true, .status statusOk]
      inbox := rest } := by
  have hword : commandWord m [0x01#8] = XWord.command m 0x01#8 0x01#8 := rfl
  rw [State.after_of_cons h, hword, Input.effect_write, writeCommand_hw]
  simp

/-- The step of a pending DMR_1K tick. -/
theorem State.after_of_tick {s : State} {sp : Space} {rest : List Input}
    (h : s.inbox = .txn (tickWord .dmr1k sp) :: rest) :
    s.after = if 1#16 ≤ sp then (s.setInbox rest).driven hw else s.setInbox rest := by
  rw [State.after_of_cons h, tickWord, Input.effect_tickDmr1k]
  simp only [spaceOk_hw_iff]

/-- An enabling write emits no frame. -/
theorem State.after_of_arming_frames {s : State} {m : Mode} {rest : List Input}
    (h : s.inbox = .txn (commandWord m [0x01#8]) :: rest) : framesOf s.after.trace = framesOf s.trace := by
  rw [State.after_of_arming h, framesOf_append]
  exact List.append_nil _

theorem State.driven_frames (s : State) (p : Params) :
    framesOf (s.driven p).trace = framesOf s.trace ++ s.drivenFrames p := by
  rw [State.driven_trace, framesOf_append, framesOf_map_frameOut]

/-- Settles O52: the command is the older of the two inputs, and the arming is seen by the tick after it. -/
theorem commandOfferedWithTickGoesFirst : Obligations.CommandOfferedWithTickGoesFirst := by
  intro s command tick hq
  have hinbox : ∀ command tick, (s.offerTogether command tick).inbox = .txn command :: [.txn tick] := fun _ _ =>
    congrArg (· ++ _ ++ _) hq
  refine ⟨⟨decodeTxn command, rfl, step_txn (hinbox command tick)⟩, fun hidle sp hsp => ?_⟩
  have hq' := hinbox (commandWord .dmr1k [0x01#8]) (tickWord .dmr1k sp)
  generalize hs' : s.offerTogether (commandWord .dmr1k [0x01#8]) (tickWord .dmr1k sp) = s' at hq' ⊢
  have hidle' : s'.fsmState = .idle := hs' ▸ hidle
  have harmed := State.after_of_arming hq'
  rw [if_pos ⟨hidle', rfl⟩] at harmed
  have hdriven := (State.after_of_tick (congrArg State.inbox harmed)).trans (if_pos hsp)
  refine ⟨s'.after.after, run_eq 2 s', ?_⟩
  rw [hdriven]
  refine ⟨?fsmState, ?te, rfl, ?frames⟩
  case fsmState => rw [State.driven_fsmState, harmed]; rfl
  case te => rw [State.driven_te, harmed]; rfl
  case frames =>
    calc framesOf ((s'.after.setInbox []).driven hw).trace
      _ = framesOf s'.after.trace ++ (s'.after.setInbox []).drivenFrames hw := State.driven_frames _ _
      _ = framesOf s'.trace ++ (s'.after.setInbox []).drivenFrames hw := by rw [State.after_of_arming_frames hq']
      _ = framesOf s.trace ++ [hw.vhRom] := by rw [harmed, ← hs']; rfl

/-! ### A re-arm during a session (43_command.md R196) -/

/-- While `te` is set a DMR_1K tick, with or without space, keeps VOICE. -/
theorem State.after_of_tick_voice {s : State} {sp : Space} {rest : List Input}
    (h : s.inbox = .txn (tickWord .dmr1k sp) :: rest) (hf : s.fsmState = .voice) (ht : s.te = true) :
    s.after.fsmState = .voice := by
  rw [State.after_of_tick h]
  split_ifs
  · simp [State.drivenFsm, hf, ht]
  · exact hf

/-- A DMR_1K tick, with or without space, keeps `te`. -/
theorem State.after_of_tick_te {s : State} {sp : Space} {rest : List Input}
    (h : s.inbox = .txn (tickWord .dmr1k sp) :: rest) : s.after.te = s.te := by
  rw [State.after_of_tick h]
  split_ifs <;> rfl

/-- A DMR_1K tick in IDLE, with or without space, only leaves the pending list. -/
theorem State.after_of_tick_idle {s : State} {sp : Space} {rest : List Input}
    (h : s.inbox = .txn (tickWord .dmr1k sp) :: rest) (hf : s.fsmState = .idle) : s.after = s.setInbox rest := by
  rw [State.after_of_tick h, State.driven_of_idle hw (s := s.setInbox rest) hf, ite_self]

/-- A WRITE of 1 in a session, whatever its mode, sets `te`, switches the RF interface and answers (R196). -/
theorem exec_write_one_of_session (m : Mode) {s : State} (hf : s.fsmState ≠ .idle) :
    exec (.write m 0x01#8) s = .next { s with
      te := true, trace := s.trace ++ [.rfIfConf hw.rfDmrTag true, .status 0#8] } := by
  rw [exec_write, writeCommand_hw]
  simp [hf, statusOk]

/-- Two DMR_1K ticks in a session with `te` set, the first with space: the first sends the session's next frame, and
the second finds VOICE, or IDLE after the terminator, and stays there. -/
theorem State.two_ticks_of_session {s : State} {a b : Space} {rest : List Input}
    (hq : s.inbox = .txn (tickWord .dmr1k a) :: .txn (tickWord .dmr1k b) :: rest) (ht : s.te = true)
    (hf : s.fsmState ≠ .idle) (ha : 1#16 ≤ a) :
    s.after.audioSeq = (if s.fsmState = .voice then s.audioSeq + 1 else s.audioSeq) ∧
      framesOf s.after.trace = framesOf s.trace ++
        [if s.fsmState = .vh then hw.vhRom else if s.fsmState = .vt then hw.vtRom else s.after.voiceBuf] ∧
      s.after.after.te = true ∧ s.after.after.fsmState = (if s.fsmState = .vt then .idle else .voice) ∧
      (s.fsmState = .vt → framesOf s.after.after.trace = framesOf s.after.trace) := by
  have hdriven : s.after = (s.setInbox _).driven hw := (State.after_of_tick hq).trans (if_pos ha)
  have hq' : s.after.inbox = .txn (tickWord .dmr1k b) :: rest := by rw [hdriven]; rfl
  have ht' : s.after.te = true := by rw [hdriven]; exact ht
  have hfrom : s.after.fsmState = if s.fsmState = .vt then .idle else .voice := by
    rw [hdriven]
    cases hs : s.fsmState <;> simp_all [State.drivenFsm]
  refine ⟨by rw [hdriven]; rfl, ?frames, (State.after_of_tick_te hq').trans ht', ?_⟩
  case frames =>
    rw [hdriven]
    cases hs : s.fsmState <;> simp_all [State.drivenFrames, State.drivenBuf]
  by_cases hvt : s.fsmState = .vt
  · rw [if_pos hvt] at hfrom ⊢
    rw [State.after_of_tick_idle hq' hfrom]
    exact ⟨hfrom, fun _ => rfl⟩
  · rw [if_neg hvt] at hfrom ⊢
    exact ⟨State.after_of_tick_voice hq' hfrom ht', fun h => absurd h hvt⟩

/-- Settles O44: the re-arm leaves the session where it was, and the two ticks go on from there. -/
theorem rearmDoesNotRestart : Obligations.RearmDoesNotRestart := by
  refine ⟨fun m s hf => exec_write_one_of_session m hf, fun m a b s rest hq hf ha => ?_⟩
  have harmed := State.after_of_arming hq
  rw [if_neg fun hc => hf hc.1] at harmed
  have hq' : s.after.inbox = _ := congrArg State.inbox harmed
  have ht' : s.after.te = true := congrArg State.te harmed
  have hfsm : s.after.fsmState = s.fsmState := by rw [harmed]
  have hseq : s.after.audioSeq = s.audioSeq := by rw [harmed]
  have hframes : framesOf s.after.trace = framesOf s.trace := State.after_of_arming_frames hq
  have hticks := State.two_ticks_of_session hq' ht' (hfsm ▸ hf) ha
  rw [hfsm, hseq, hframes] at hticks
  exact ⟨_, _, run_eq 2 s, step_eq _, hticks⟩

end Sys2Proof.Machine

namespace Sys2Proof.Machine

/-! ### Runs of DMR_1K ticks (41_sequencer.md section 3) -/

/-- `n` stalls only leave the pending list (41_sequencer.md R142). -/
theorem iterate_after_stalls (n : Nat) (s : State) (rest : List Input)
    (hq : s.inbox = List.replicate n (.txn (tickWord .dmr1k 0#16)) ++ rest) :
    State.after^[n] s = s.setInbox rest := by
  induction n generalizing s with
  | zero => exact State.eq_of_fields rfl rfl rfl rfl rfl rfl hq rfl
  | succ n ih =>
    have hstall : s.after = s.setInbox _ := (State.after_of_tick hq).trans (if_neg (by decide))
    rw [Function.iterate_succ_apply, hstall, ih _ rfl]
    rfl

/-- Settles O45: a run is the steps iterated, and each of these only takes its tick from the pending list. -/
theorem stallsChangeNothingForEver : Obligations.StallsChangeNothingForEver := fun n s rest hq =>
  (run_eq n s).trans (congrArg Host.Outcome.next (iterate_after_stalls n s rest hq))

/-- The position `k` places after `a` in cyclic order (41_sequencer.md R149). -/
def cyclicPosition (a : Fin 6) (k : Nat) : Fin 6 := ⟨(a.val + k) % 6, Nat.mod_lt _ (by decide)⟩

theorem cyclicPosition_zero (a : Fin 6) : cyclicPosition a 0 = a := Fin.ext (Nat.mod_eq_of_lt a.isLt)

theorem cyclicPosition_succ (a : Fin 6) (k : Nat) : cyclicPosition a (k + 1) = cyclicPosition (a + 1) k := by
  apply Fin.ext
  simp only [cyclicPosition, Fin.val_add, Fin.val_one]
  omega

/-- The step of a DMR_1K tick with space in VOICE while `te` is set: the next voice frame, and VOICE goes on. -/
theorem State.after_of_drive_voice {s : State} {sp : Space} {rest : List Input} (h : s.Inv hw)
    (hf : s.fsmState = .voice) (ht : s.te = true) (hq : s.inbox = .txn (tickWord .dmr1k sp) :: rest)
    (hsp : 1#16 ≤ sp) :
    s.after.fsmState = .voice ∧ s.after.te = true ∧ s.after.inbox = rest ∧ s.after.audioSeq = s.audioSeq + 1 ∧
      framesOf s.after.trace = framesOf s.trace ++ [voiceFrame hw s.audioSeq] := by
  have hdriven : s.after = (s.setInbox rest).driven hw := (State.after_of_tick hq).trans (if_pos hsp)
  have hframes : s.pairFrames hw = [voiceFrame hw s.audioSeq] := by simp [State.pairFrames, hf]
  refine ⟨State.after_of_tick_voice hq hf ht, (State.after_of_tick_te hq).trans ht, ?_, ?_, ?_⟩
  · rw [hdriven]; rfl
  · rw [hdriven]; exact if_pos hf
  · rw [hdriven, State.driven_frames, (h.setInbox rest).drivenFrames_eq]
    exact congrArg (framesOf s.trace ++ ·) hframes

/-- The run of a list of DMR_1K ticks with space from VOICE while `te` is set. -/
theorem iterate_after_drives_voice (spaces : List Space) (s : State) (rest : List Input) (h : s.Inv hw)
    (hf : s.fsmState = .voice) (ht : s.te = true)
    (hq : s.inbox = spaces.map (fun sp => .txn (tickWord .dmr1k sp)) ++ rest) (hsp : ∀ sp ∈ spaces, 1#16 ≤ sp) :
    (State.after^[spaces.length] s).fsmState = .voice ∧ (State.after^[spaces.length] s).te = true ∧
      (State.after^[spaces.length] s).inbox = rest ∧
      (State.after^[spaces.length] s).audioSeq = cyclicPosition s.audioSeq spaces.length ∧
      framesOf (State.after^[spaces.length] s).trace = framesOf s.trace ++
        (List.range spaces.length).map fun k => voiceFrame hw (cyclicPosition s.audioSeq k) := by
  induction spaces generalizing s with
  | nil => exact ⟨hf, ht, hq, (cyclicPosition_zero _).symm, (List.append_nil _).symm⟩
  | cons sp spaces ih =>
    obtain ⟨hsp, hspaces⟩ := List.forall_mem_cons.1 hsp
    obtain ⟨hf', ht', hq', hseq, hframes⟩ := State.after_of_drive_voice h hf ht hq hsp
    obtain ⟨hfn, htn, hqn, hseqn, hframesn⟩ := ih s.after h.after hf' ht' hq' hspaces
    rw [List.length_cons, Function.iterate_succ_apply]
    refine ⟨hfn, htn, hqn, ?_, ?_⟩
    · rw [hseqn, hseq, cyclicPosition_succ]
    · rw [hframesn, hframes, hseq, List.append_assoc, List.range_succ_eq_map, List.map_cons, List.map_map,
        cyclicPosition_zero]
      simp only [Function.comp_def, Nat.succ_eq_add_one, cyclicPosition_succ]
      rfl

/-- Settles O46: the run of the ticks, with the positions in cyclic order. -/
theorem positionsCycle : Obligations.PositionsCycle := by
  intro spaces s rest h hf ht hq hsp
  obtain ⟨hfn, htn, hqn, hseqn, hframesn⟩ := iterate_after_drives_voice spaces s rest h hf ht hq hsp
  exact ⟨_, run_eq _ s, hfn, htn, hqn, congrArg Fin.val hseqn, hframesn⟩

/-! ### A step of a session -/

theorem State.after_inbox (s : State) : s.after.inbox = s.inbox.tail := by
  rcases hq : s.inbox with _ | ⟨i, rest⟩
  · rw [State.after_of_nil hq, hq, List.tail_nil]
  · rw [State.after_of_cons hq, Input.effect_inbox, State.setInbox_inbox, List.tail_cons]

/-- What a step takes from the pending list leaves only inputs that were pending. -/
theorem State.forall_inbox_after {s : State} {P : Input → Prop} (h : ∀ i ∈ s.inbox, P i) : ∀ i ∈ s.after.inbox, P i :=
  fun i hi => h i (List.mem_of_mem_tail (s.after_inbox ▸ hi))

/-- In a session a step with no reset pending goes on as a driving tick does, or stays where it is. -/
theorem State.Inv.after_moves {s : State} (h : s.Inv hw) (hinputs : ∀ i ∈ s.inbox, i ≠ .reset)
    (hf : s.fsmState ≠ .idle) :
    (s.after.fsmState = s.drivenFsm ∧ s.after.audioSeq = s.drivenSeq ∧
        framesOf s.after.trace = framesOf s.trace ++ s.pairFrames hw) ∨
      (s.after.fsmState = s.fsmState ∧ s.after.audioSeq = s.audioSeq ∧
        framesOf s.after.trace = framesOf s.trace) := by
  have hframes := h.after_frames
  rcases hq : s.inbox with _ | ⟨i, rest⟩
  · rw [State.after_of_nil hq]
    exact .inr ⟨rfl, rfl, rfl⟩
  rw [hq, List.head?_cons, Option.any_some] at hframes
  rw [State.after_of_cons hq] at hframes ⊢
  by_cases hd : i.drives hw = true
  · rw [if_pos hd] at hframes
    rw [Input.effect_of_drives hd] at hframes ⊢
    exact .inl ⟨rfl, rfl, hframes⟩
  · rw [if_neg hd, List.append_nil] at hframes
    have hr : i ≠ .reset := hinputs i (hq ▸ List.mem_cons_self)
    have hund := Input.effect_undriven hr (Bool.not_eq_true _ ▸ hd) (s.setInbox rest)
    exact .inr ⟨hund.fsmState hf, hund.audioSeq, hframes⟩

/-! ### The disarmed session (41_sequencer.md R150, R154) -/

/-- What holds along a run with `te` clear and neither a reset nor an enabling write pending. -/
structure State.Disarmed (s : State) : Prop where
  inv : s.Inv hw
  te : s.te = false
  inputs : ∀ i ∈ s.inbox, i ≠ .reset ∧ i.enables = false

/-- One input of a disarmed run drives the sequencer, or keeps it; either way `te` stays clear. -/
theorem Input.effect_disarmed {s : State} {i : Input} (ht : s.te = false) (hr : i ≠ .reset)
    (hen : i.enables = false) :
    (i.effect s).te = false ∧
      ((i.drives hw = true ∧ i.effect s = s.driven hw) ∨
        (i.drives hw = false ∧ (i.effect s).fsmState = s.fsmState ∧ (i.effect s).audioSeq = s.audioSeq)) := by
  by_cases hd : i.drives hw = true
  · have hdriven := Input.effect_of_drives hd s
    exact ⟨hdriven ▸ ht, .inl ⟨hd, hdriven⟩⟩
  · rw [Bool.not_eq_true] at hd
    have hund := Input.effect_undriven hr hd s
    obtain ⟨hf, hte⟩ := hund.disarmed hen ht
    exact ⟨hte, .inr ⟨hd, hf, hund.audioSeq⟩⟩

theorem State.Disarmed.after {s : State} (h : s.Disarmed) : s.after.Disarmed := by
  refine ⟨h.inv.after, ?_, State.forall_inbox_after h.inputs⟩
  rcases hq : s.inbox with _ | ⟨i, rest⟩
  · rw [State.after_of_nil hq]
    exact h.te
  · obtain ⟨hr, hen⟩ := h.inputs i (hq ▸ List.mem_cons_self)
    rw [State.after_of_cons hq]
    exact (Input.effect_disarmed (s := s.setInbox rest) h.te hr hen).1

/-- The voice frames from a position on are its own and those from the next position on. -/
theorem voiceFramesFrom_eq_cons (p : Params) (a : Fin 6) :
    voiceFramesFrom p a = voiceFrame p a :: if a = 5 then [] else voiceFramesFrom p (a + 1) := by
  have hpos : ∀ a : Fin 6, (List.finRange 6).filter (fun n => decide (a ≤ n)) =
      a :: if a = 5 then [] else (List.finRange 6).filter fun n => decide (a + 1 ≤ n) := by decide
  rw [voiceFramesFrom, hpos, List.map_cons]
  split_ifs <;> rfl

/-- The frames left until VT while `te` stays clear, by the pair `(fsm_state, audio_seq)` (41_sequencer.md R150). -/
def framesToVt (f : FsmState) (n : Fin 6) : List Frame :=
  match f with
  | .vh => hw.vhRom :: voiceFramesFrom hw n
  | .voice => voiceFramesFrom hw n
  | .vt | .idle => []

/-- A driving tick before VT emits the first of the frames left. -/
theorem State.pairFrames_append_framesToVt {s : State} (ht : s.te = false) (hidle : s.fsmState ≠ .idle)
    (hvt : s.fsmState ≠ .vt) :
    s.pairFrames hw ++ framesToVt s.drivenFsm s.drivenSeq = framesToVt s.fsmState s.audioSeq := by
  cases hf : s.fsmState with
  | idle => exact absurd hf hidle
  | vt => exact absurd hf hvt
  | vh => simp [State.pairFrames, State.drivenFsm, State.drivenSeq, framesToVt, hf]
  | voice =>
    simp only [State.pairFrames, State.drivenFsm, State.drivenSeq, hf, ht, framesToVt]
    rw [voiceFramesFrom_eq_cons hw s.audioSeq]
    by_cases h5 : s.audioSeq = 5 <;> simp [h5]

theorem State.drivenFsm_ne_idle {s : State} (hidle : s.fsmState ≠ .idle) (hvt : s.fsmState ≠ .vt) :
    s.drivenFsm ≠ .idle := by
  rw [State.drivenFsm]
  cases hf : s.fsmState with
  | idle => exact absurd hf hidle
  | vt => exact absurd hf hvt
  | vh => exact nofun
  | voice => dsimp only; split_ifs <;> exact nofun

/-- What holds of a disarmed run until VT is first reached: the frames emitted and those left are together `F`. -/
structure State.DisarmedTowardsVt (F : List Frame) (s : State) : Prop where
  disarmed : s.Disarmed
  session : s.fsmState ≠ .idle
  frames : framesOf s.trace ++ framesToVt s.fsmState s.audioSeq = F

theorem State.DisarmedTowardsVt.after {F : List Frame} {s : State} (h : s.DisarmedTowardsVt F)
    (hvt : s.fsmState ≠ .vt) : s.after.DisarmedTowardsVt F := by
  obtain ⟨hdis, hidle, rfl⟩ := h
  rcases hdis.inv.after_moves (fun i hi => (hdis.inputs i hi).1) hidle with ⟨hf, hseq, hframes⟩ | ⟨hf, hseq, hframes⟩
  · refine ⟨hdis.after, hf ▸ State.drivenFsm_ne_idle hidle hvt, ?_⟩
    rw [hframes, hf, hseq, List.append_assoc, State.pairFrames_append_framesToVt hdis.te hidle hvt]
  · exact ⟨hdis.after, hf ▸ hidle, by rw [hframes, hf, hseq]⟩

/-- Settles O47: at VT no frame is left, so the frames emitted are all those that were left at first. -/
theorem disarmIsHonouredOnlyAtTheWrap : Obligations.DisarmIsHonouredOnlyAtTheWrap := by
  intro n s t hinv ht hf hinputs hrun hvt hfirst
  obtain rfl := eq_iterate_of_run hrun
  have hidle : s.fsmState ≠ .idle := by rcases hf with hf | hf <;> rw [hf] <;> exact nofun
  obtain ⟨-, -, hframes⟩ := iterate_after_induction (stop := fun u => u.fsmState = .vt)
    (P := State.DisarmedTowardsVt (framesOf s.trace ++ framesToVt s.fsmState s.audioSeq)) (fun _ => .after)
    ⟨⟨hinv, ht, hinputs⟩, hidle, rfl⟩ n fun j hj => hfirst j hj _ (run_eq j s)
  rw [hvt, framesToVt, List.append_nil] at hframes
  rw [hframes, List.append_assoc]
  rcases hf with hf | hf <;> simp [hf, framesToVt]

/-- A driving tick of a disarmed session takes one off the ticks to IDLE (41_sequencer.md R154). -/
theorem State.driven_ticksToIdle {s : State} (h : s.Inv hw) (ht : s.te = false) :
    (s.driven hw).ticksToIdle = s.ticksToIdle - 1 := by
  rw [State.ticksToIdle, State.ticksToIdle, State.driven_fsmState, State.driven_audioSeq, State.drivenFsm,
    State.drivenSeq]
  cases hf : s.fsmState with
  | idle | vt => rfl
  | vh => simp [h.seq_zero (by rw [hf]; exact nofun)]
  | voice =>
    by_cases h5 : s.audioSeq = 5
    · simp [h5, ht]
    · have hlt : s.audioSeq.val + 1 < 6 := by omega
      simp only [h5, false_and, if_false, if_true, Fin.val_add, Fin.val_one, Nat.mod_eq_of_lt hlt]
      omega

/-- Each input of a disarmed run takes one off the ticks to IDLE exactly if it drives. -/
theorem State.Disarmed.after_ticksToIdle {s : State} (h : s.Disarmed) {i : Input} {rest : List Input}
    (hq : s.inbox = i :: rest) :
    s.after.ticksToIdle = s.ticksToIdle - if i.drives hw = true then 1 else 0 := by
  obtain ⟨hr, hen⟩ := h.inputs i (hq ▸ List.mem_cons_self)
  rw [State.after_of_cons hq]
  rcases (Input.effect_disarmed (s := s.setInbox rest) h.te hr hen).2 with ⟨hd, e⟩ | ⟨hd, hf, hseq⟩
  · rw [e, if_pos hd]
    exact State.driven_ticksToIdle (h.inv.setInbox rest) h.te
  · rw [if_neg (by simp [hd]), State.ticksToIdle, hf, hseq]
    rfl

/-- Performing all the inputs of a disarmed run takes off one tick for each that drives. -/
theorem State.Disarmed.iterate_after {s : State} (h : s.Disarmed) {inputs : List Input} (hq : s.inbox = inputs) :
    (State.after^[inputs.length] s).Disarmed ∧
      (State.after^[inputs.length] s).ticksToIdle = s.ticksToIdle - inputs.countP (Input.drives hw) := by
  induction inputs generalizing s with
  | nil => exact ⟨h, rfl⟩
  | cons i rest ih =>
    have hrest : s.after.inbox = rest := by rw [State.after_inbox, hq, List.tail_cons]
    obtain ⟨hdis, hticks⟩ := ih h.after hrest
    rw [List.length_cons, Function.iterate_succ_apply]
    refine ⟨hdis, ?_⟩
    rw [hticks, h.after_ticksToIdle hq, List.countP_cons]
    omega

theorem State.ticksToIdle_eq_zero_iff (s : State) : s.ticksToIdle = 0 ↔ s.fsmState = .idle := by
  rw [State.ticksToIdle]
  cases s.fsmState <;> simp
  omega

theorem State.ticksToIdle_le_eight (s : State) : s.ticksToIdle ≤ 8 := by
  rw [State.ticksToIdle]
  cases s.fsmState <;> simp
  omega

/-- Settles O49: the ticks left at the end are those of the table less the driving ticks performed. -/
theorem disarmedSessionReachesIdle : Obligations.DisarmedSessionReachesIdle := by
  intro s hinv ht hinputs
  obtain ⟨hdis, hticks⟩ := State.Disarmed.iterate_after ⟨hinv, ht, hinputs⟩ rfl
  refine ⟨_, run_eq _ s, hdis.te, s.ticksToIdle_le_eight, hticks, ?_⟩
  rw [← State.ticksToIdle_eq_zero_iff, hticks, Nat.sub_eq_zero_iff_le]

/-! ### The shape of a session (41_sequencer.md R151) -/

/-- The six voice frames in order. -/
def voiceGroup : List Frame := (List.finRange 6).map (voiceFrame hw)

/-- `k` whole groups of voice frames. -/
def voiceGroups (k : Nat) : List Frame := (List.replicate k voiceGroup).flatten

theorem voiceGroups_succ (k : Nat) : voiceGroups (k + 1) = voiceGroups k ++ voiceGroup := by
  simp [voiceGroups, List.replicate_succ']

/-- A group up to a position and that position's frame is the group up to the next one. -/
theorem voiceGroup_take_succ (n : Fin 6) :
    voiceGroup.take (n.val + 1) = voiceGroup.take n.val ++ [voiceFrame hw n] := by
  have hn : voiceGroup[n.val]? = some (voiceFrame hw n) := by simp [voiceGroup]
  rw [List.take_add_one, hn, Option.toList_some]

/-- What a session has emitted since VH when the pair is `(f, n)`: the header, whole groups, and in VOICE the group
begun; at least one group before VT, and the terminator before IDLE. -/
def SessionFrames (f : FsmState) (n : Fin 6) (fs : List Frame) : Prop :=
  match f with
  | .vh => fs = []
  | .voice => ∃ k, fs = [hw.vhRom] ++ voiceGroups k ++ voiceGroup.take n.val
  | .vt => ∃ k, 1 ≤ k ∧ fs = [hw.vhRom] ++ voiceGroups k
  | .idle => ∃ k, 1 ≤ k ∧ fs = [hw.vhRom] ++ voiceGroups k ++ [hw.vtRom]

/-- A driving tick in a session goes on with its frames. -/
theorem SessionFrames.driven {s : State} {fs : List Frame} (h : s.Inv hw) (hidle : s.fsmState ≠ .idle)
    (hfs : SessionFrames s.fsmState s.audioSeq fs) :
    SessionFrames s.drivenFsm s.drivenSeq (fs ++ s.pairFrames hw) := by
  rw [State.drivenFsm, State.drivenSeq, State.pairFrames]
  cases hf : s.fsmState with
  | idle => exact absurd hf hidle
  | vh =>
    rw [hf] at hfs
    obtain rfl : fs = [] := hfs
    exact ⟨0, by simp [voiceGroups, h.seq_zero (by rw [hf]; exact nofun)]⟩
  | vt =>
    rw [hf] at hfs
    obtain ⟨k, hk, rfl⟩ := hfs
    exact ⟨k, hk, rfl⟩
  | voice =>
    rw [hf] at hfs
    obtain ⟨k, rfl⟩ := hfs
    have hgroup := voiceGroup_take_succ s.audioSeq
    simp only [if_true, List.append_assoc, ← hgroup]
    by_cases h5 : s.audioSeq = 5
    · have hall : voiceGroup.take (s.audioSeq.val + 1) = voiceGroup := by rw [h5]; rfl
      rw [hall, h5, ← voiceGroups_succ]
      split_ifs
      · exact ⟨k + 1, by omega, rfl⟩
      · exact ⟨k + 1, by simp⟩
    · have hnext : (s.audioSeq + 1).val = s.audioSeq.val + 1 := by
        rw [Fin.val_add, Fin.val_one]
        omega
      rw [if_neg fun hc => h5 hc.1, ← hnext]
      exact ⟨k, by simp⟩

/-- What holds of a session until IDLE is first reached, after the frames `F` that came before it. -/
structure State.InSession (F : List Frame) (s : State) : Prop where
  inv : s.Inv hw
  inputs : ∀ i ∈ s.inbox, i ≠ .reset
  frames : ∃ fs, framesOf s.trace = F ++ fs ∧ SessionFrames s.fsmState s.audioSeq fs

theorem State.InSession.after {F : List Frame} {s : State} (h : s.InSession F) (hidle : s.fsmState ≠ .idle) :
    s.after.InSession F := by
  obtain ⟨hinv, hinputs, fs, hframes, hsession⟩ := h
  refine ⟨hinv.after, State.forall_inbox_after hinputs, ?_⟩
  rcases hinv.after_moves hinputs hidle with ⟨hf, hseq, hframes'⟩ | ⟨hf, hseq, hframes'⟩ <;>
    rw [hf, hseq, hframes', hframes]
  · exact ⟨_, List.append_assoc _ _ _, hsession.driven hinv hidle⟩
  · exact ⟨fs, rfl, hsession⟩

/-- Settles O48: the frames of a session at IDLE. -/
theorem sessionHasItsShape : Obligations.SessionHasItsShape := by
  intro n s t hinv hvh hinputs hrun hidle hfirst
  obtain rfl := eq_iterate_of_run hrun
  have hstart : s.InSession (framesOf s.trace) := by
    refine ⟨hinv, hinputs, [], (List.append_nil _).symm, ?_⟩
    rw [hvh]
    rfl
  obtain ⟨-, -, fs, hframes, hsession⟩ := iterate_after_induction (stop := fun u => u.fsmState = .idle)
    (fun _ => State.InSession.after) hstart n fun j hj => hfirst j hj _ (run_eq j s)
  rw [hidle] at hsession
  obtain ⟨k, hk, rfl⟩ := hsession
  exact ⟨k, hk, hframes⟩

/-! ### The diagnostic window (42_dispatcher.md R173) -/

/-- The increment of a counter that holds `k` and does not overflow. -/
theorem diagIncrement_ofNat (p : Params) {k : Nat} (hk : k < 2 ^ 32 - 1) :
    diagIncrement p (BitVec.ofNat 32 k) = BitVec.ofNat 32 (k + 1) ∧ (BitVec.ofNat 32 (k + 1)).toNat = k + 1 := by
  have htoNat : (BitVec.ofNat 32 k).toNat < 2 ^ 32 - 1 := by
    rw [BitVec.toNat_ofNat]
    omega
  rw [diagIncrement_of_lt p htoNat, BitVec.toNat_ofNat]
  exact ⟨(BitVec.ofNat_add k 1).symm, by omega⟩

section
variable {p : Params} {s : State} (hfits : p.diagThreshold ≤ 2 ^ 32 - 1)
include hfits

/-- An INT_DIAG tick from a counter of `k` that stays below the threshold only counts. -/
theorem intDiagTick_of_lt {k : Nat} (hk : k + 1 < p.diagThreshold) (hc : s.diagCounter = BitVec.ofNat 32 k) :
    intDiagTick p s = { s with diagCounter := BitVec.ofNat 32 (k + 1) } := by
  obtain ⟨hinc, htoNat⟩ := diagIncrement_ofNat p (k := k) (by omega)
  rcases intDiagTick_cases s p with ⟨_, e⟩ | ⟨hle, _⟩
  · rw [e, hc, hinc]
  · rw [hc, hinc, htoNat] at hle
    omega

/-- An INT_DIAG tick from the last counter below the threshold starts again at 0, reads and logs. -/
theorem intDiagTick_at_threshold {k : Nat} (hk : k + 1 = p.diagThreshold) (hc : s.diagCounter = BitVec.ofNat 32 k) :
    intDiagTick p s = { s with
      diagCounter := 0#32
      intReads := s.intReads + 1
      trace := s.trace ++ [.readIntCounters, diagLine p.diagShiftSel (p.intCounts s.intReads)] } := by
  obtain ⟨hinc, htoNat⟩ := diagIncrement_ofNat p (k := k) (by omega)
  rcases intDiagTick_cases s p with ⟨hlt, _⟩ | ⟨_, e⟩
  · rw [hc, hinc, htoNat] at hlt
    omega
  · exact e

/-- Below the threshold `k` INT_DIAG ticks from a counter of 0 count to `k` and emit nothing. -/
theorem iterate_intDiagTick_of_lt (hzero : s.diagCounter = 0#32) (k : Nat) (hk : k < p.diagThreshold) :
    (intDiagTick p)^[k] s = { s with diagCounter := BitVec.ofNat 32 k } := by
  induction k with
  | zero => exact State.eq_of_fields rfl rfl rfl rfl hzero rfl rfl rfl
  | succ k ih => rw [Function.iterate_succ_apply', ih (by omega), intDiagTick_of_lt hfits hk rfl]

end

/-- Settles O50: the count up to the last tick of the window, and that tick logs. -/
theorem diagnosticLogsOncePerWindow : Obligations.DiagnosticLogsOncePerWindow := by
  intro p s hpos hfits hzero
  refine ⟨iterate_intDiagTick_of_lt hfits hzero, ?_⟩
  obtain ⟨k, hk⟩ : ∃ k, k + 1 = p.diagThreshold := ⟨p.diagThreshold - 1, by omega⟩
  rw [← hk, Function.iterate_succ_apply', iterate_intDiagTick_of_lt hfits hzero k (by omega),
    intDiagTick_at_threshold hfits hk rfl]
  exact State.eq_of_fields rfl rfl rfl rfl hzero.symm rfl rfl rfl

end Sys2Proof.Machine
